-- ==== Sys2Proof/Word.lean ====
section
/-! DEFINITION. The word type, the two ports (cores, directions) and a pair of banked copies.
Spec: 00_scope.md R6 (W, NCORES, NDIR), R7, R10. -/

namespace Sys2Proof

/-- A data word, register or handler reference: 32 bits (R6 `W`, R7). -/
abbrev Word := BitVec 32

/-- One byte of the table image in main memory (R65). -/
abbrev Byte := BitVec 8

/-- A port, the core it belongs to, and the direction that core sends on: port `p` belongs to core `p`,
direction `d` carries words from core `d` to core `1-d` (R10; the values 0 and 1 are D1). -/
inductive Port where
  | p0
  | p1
deriving DecidableEq, Repr

/-- The other port: `1-p` (R10). -/
def Port.other : Port → Port
  | .p0 => .p1
  | .p1 => .p0

/-- One copy per core, direction or port: what R20 calls banked, or one per direction. -/
structure Pair (α : Type) where
  c0 : α
  c1 : α
deriving DecidableEq, Repr

/-- The copy of core, port or direction `p`. -/
def Pair.get {α : Type} (b : Pair α) : Port → α
  | .p0 => b.c0
  | .p1 => b.c1

/-- The pair with the copy of `p` replaced. -/
def Pair.set {α : Type} (b : Pair α) (p : Port) (v : α) : Pair α :=
  match p with
  | .p0 => ⟨v, b.c1⟩
  | .p1 => ⟨b.c0, v⟩

/-- Both copies through one function. -/
def Pair.map {α β : Type} (f : Port → α → β) (b : Pair α) : Pair β :=
  ⟨f .p0 b.c0, f .p1 b.c1⟩

end Sys2Proof
end

