-- ==== Sys2Proof/Syntax.lean ====
section
/-! DEFINITION. The 27 transactions of the opcode table, one constructor a row, in the table's order.
Spec: 30_encoding.md R91 to R93; spec/opcode_table.json. -/

namespace Sys2Proof

/-- A register transaction (R93). `d` is the whole written word, `go` is bit 0 of `BSQ_CTRL`, `idx` the unsigned
table index (R92). The issuing port is no part of the word (R61, R90), so it is no part of `Instr`. -/
inductive Instr where
  | rdCpuid
  | rdSt
  | wrTx (d : Word)
  | rdRx
  | wrWake (d : Word)
  | wrWait (d : Word)
  | rdBsqVtor
  | wrBsqVtor (d : Word)
  | rdBsqSp
  | wrBsqSp (d : Word)
  | rdBsqEntry
  | wrBsqEntry (d : Word)
  | wrBsqCtrl (go : Bool)
  | rdBsqSt
  | rdBsqResends
  | rdIrqEn
  | wrIrqEn (d : Word)
  | wrIrqEnSet (d : Word)
  | wrIrqEnClr (d : Word)
  | wrIrqEnXor (d : Word)
  | rdIrqSt
  | wrIrqSt (d : Word)
  | rdC1St
  | rdC1Vtor
  | rdC1Sp
  | rdC1Pc
  | rdVdt (idx : Nat)
deriving DecidableEq, Repr

end Sys2Proof
end

