-- ==== Sys2Proof/Decode.lean ====
section
/-! DEFINITION. The transaction word BUS40: its fields, the decoder (total on all 2^40 words, rejecting by class),
the encoder, and the opcode map as rows. Spec: 30_encoding.md R90 to R94, R97. -/

namespace Sys2Proof

/-- A transaction word `T`: one 40-bit word (R90). -/
abbrev TWord := BitVec 40

/-- `w`, bit 39: 1 is a write (R90). -/
def fieldW (T : TWord) : Bool := T.getLsbD 39

/-- `s`, bit 38: the register space (R90). -/
def fieldS (T : TWord) : Bool := T.getLsbD 38

/-- `a`, bits 37:32: word offset or table index (R90). -/
def fieldA (T : TWord) : BitVec 6 := T.extractLsb' 32 6

/-- `d`, bits 31:0: write data (R90). -/
def fieldD (T : TWord) : Word := T.extractLsb' 0 32

/-- `T = {w, s, a, d}` (R94). -/
def packWord (w s : Bool) (a : BitVec 6) (d : Word) : TWord :=
  ((BitVec.ofBool w ++ BitVec.ofBool s) ++ a) ++ d

/-- The transaction word with a given opcode byte `T[39:32]` and data word `T[31:0]` (R90). -/
def wordOf (opcode : BitVec 8) (d : Word) : TWord := opcode ++ d

/-- Why a word is reserved: the classes (a) to (f) of R97. -/
inductive Reserved where
  /-- (a) a read with data. -/
  | readWithData
  /-- (b) a write to the vector table window. -/
  | tableWrite
  /-- (c) an undefined offset. -/
  | undefinedOffset
  /-- (d) a read of a write-only offset. -/
  | readOfWriteOnly
  /-- (e) a write to a read-only offset. -/
  | writeOfReadOnly
  /-- (f) `WR.BSQ_CTRL` with a reserved bit set. -/
  | ctrlReservedBits
deriving DecidableEq, Repr

/-- Register space 0, read: offset to transaction (R93, R97 (c) and (d)). -/
def decodeRead (a : Nat) : Except Reserved Instr :=
  match a with
  | 0x00 => .ok .rdCpuid
  | 0x01 => .ok .rdSt
  | 0x03 => .ok .rdRx
  | 0x08 => .ok .rdBsqVtor
  | 0x09 => .ok .rdBsqSp
  | 0x0A => .ok .rdBsqEntry
  | 0x0C => .ok .rdBsqSt
  | 0x0D => .ok .rdBsqResends
  | 0x10 => .ok .rdIrqEn
  | 0x14 => .ok .rdIrqSt
  | 0x18 => .ok .rdC1St
  | 0x19 => .ok .rdC1Vtor
  | 0x1A => .ok .rdC1Sp
  | 0x1B => .ok .rdC1Pc
  | 0x02 => .error .readOfWriteOnly
  | 0x04 => .error .readOfWriteOnly
  | 0x05 => .error .readOfWriteOnly
  | 0x0B => .error .readOfWriteOnly
  | 0x11 => .error .readOfWriteOnly
  | 0x12 => .error .readOfWriteOnly
  | 0x13 => .error .readOfWriteOnly
  | _ => .error .undefinedOffset

/-- Register space 0, write: offset and data to transaction (R93, R97 (c), (e) and (f)). -/
def decodeWrite (a : Nat) (d : Word) : Except Reserved Instr :=
  match a with
  | 0x02 => .ok (.wrTx d)
  | 0x04 => .ok (.wrWake d)
  | 0x05 => .ok (.wrWait d)
  | 0x08 => .ok (.wrBsqVtor d)
  | 0x09 => .ok (.wrBsqSp d)
  | 0x0A => .ok (.wrBsqEntry d)
  | 0x0B => if d.extractLsb' 1 31 = 0#31 then .ok (.wrBsqCtrl (d.getLsbD 0)) else .error .ctrlReservedBits
  | 0x10 => .ok (.wrIrqEn d)
  | 0x11 => .ok (.wrIrqEnSet d)
  | 0x12 => .ok (.wrIrqEnClr d)
  | 0x13 => .ok (.wrIrqEnXor d)
  | 0x14 => .ok (.wrIrqSt d)
  | 0x00 => .error .writeOfReadOnly
  | 0x01 => .error .writeOfReadOnly
  | 0x03 => .error .writeOfReadOnly
  | 0x0C => .error .writeOfReadOnly
  | 0x0D => .error .writeOfReadOnly
  | 0x18 => .error .writeOfReadOnly
  | 0x19 => .error .writeOfReadOnly
  | 0x1A => .error .writeOfReadOnly
  | 0x1B => .error .writeOfReadOnly
  | _ => .error .undefinedOffset

/-- The decoder, in the order of R91's steps (1) to (4). -/
def decode (T : TWord) : Except Reserved Instr :=
  if fieldW T = false ∧ fieldD T ≠ 0#32 then .error .readWithData
  else if fieldS T = true then
    if fieldW T = false then .ok (.rdVdt (fieldA T).toNat) else .error .tableWrite
  else if fieldW T = false then decodeRead (fieldA T).toNat
  else decodeWrite (fieldA T).toNat (fieldD T)

/-- The encoder (R94): the opcode byte of R93 with `d == 0` in every read. -/
def encode : Instr → TWord
  | .rdCpuid => wordOf 0x00#8 0#32
  | .rdSt => wordOf 0x01#8 0#32
  | .wrTx d => wordOf 0x82#8 d
  | .rdRx => wordOf 0x03#8 0#32
  | .wrWake d => wordOf 0x84#8 d
  | .wrWait d => wordOf 0x85#8 d
  | .rdBsqVtor => wordOf 0x08#8 0#32
  | .wrBsqVtor d => wordOf 0x88#8 d
  | .rdBsqSp => wordOf 0x09#8 0#32
  | .wrBsqSp d => wordOf 0x89#8 d
  | .rdBsqEntry => wordOf 0x0A#8 0#32
  | .wrBsqEntry d => wordOf 0x8A#8 d
  | .wrBsqCtrl go => wordOf 0x8B#8 ((BitVec.ofBool go).setWidth 32)
  | .rdBsqSt => wordOf 0x0C#8 0#32
  | .rdBsqResends => wordOf 0x0D#8 0#32
  | .rdIrqEn => wordOf 0x10#8 0#32
  | .wrIrqEn d => wordOf 0x90#8 d
  | .wrIrqEnSet d => wordOf 0x91#8 d
  | .wrIrqEnClr d => wordOf 0x92#8 d
  | .wrIrqEnXor d => wordOf 0x93#8 d
  | .rdIrqSt => wordOf 0x14#8 0#32
  | .wrIrqSt d => wordOf 0x94#8 d
  | .rdC1St => wordOf 0x18#8 0#32
  | .rdC1Vtor => wordOf 0x19#8 0#32
  | .rdC1Sp => wordOf 0x1A#8 0#32
  | .rdC1Pc => wordOf 0x1B#8 0#32
  | .rdVdt idx => packWord false true (BitVec.ofNat 6 idx) 0#32

/-- What the host asks: the transaction the decoder reads from the word whose bits are `w`. A transaction is one
40-bit word, so `w` is `T` itself; bits at or above `nbits` are 0. -/
def decodeTableWord (nbits w : Nat) : Option Instr :=
  if w % 2 ^ nbits < 2 ^ 40 then (decode (BitVec.ofNat 40 (w % 2 ^ nbits))).toOption else none

/-- A row of the opcode map: a word `T` selects the row when `T & mask == match` (R93). -/
structure OpcodeRow where
  mnemonic : String
  matchBits : TWord
  mask : TWord
deriving DecidableEq, Repr

/-- A row with no free bit. -/
def fixedRow (m : String) (opcode : BitVec 8) : OpcodeRow := ⟨m, wordOf opcode 0#32, 0xFFFFFFFFFF#40⟩

/-- A row whose 32 data bits are free. -/
def dataRow (m : String) (opcode : BitVec 8) : OpcodeRow := ⟨m, wordOf opcode 0#32, 0xFF00000000#40⟩

/-- The 27 rows of R93, in the table's order. -/
def opcodeRows : List OpcodeRow :=
  [fixedRow "RD.CPUID" 0x00#8, fixedRow "RD.ST" 0x01#8, dataRow "WR.TX" 0x82#8, fixedRow "RD.RX" 0x03#8,
   dataRow "WR.WAKE" 0x84#8, dataRow "WR.WAIT" 0x85#8] ++
  [fixedRow "RD.BSQ_VTOR" 0x08#8, dataRow "WR.BSQ_VTOR" 0x88#8, fixedRow "RD.BSQ_SP" 0x09#8,
   dataRow "WR.BSQ_SP" 0x89#8, fixedRow "RD.BSQ_ENTRY" 0x0A#8, dataRow "WR.BSQ_ENTRY" 0x8A#8,
   ⟨"WR.BSQ_CTRL", 0x8B00000000#40, 0xFFFFFFFFFE#40⟩, fixedRow "RD.BSQ_ST" 0x0C#8,
   fixedRow "RD.BSQ_RESENDS" 0x0D#8] ++
  [fixedRow "RD.IRQ_EN" 0x10#8, dataRow "WR.IRQ_EN" 0x90#8, dataRow "WR.IRQ_EN_SET" 0x91#8,
   dataRow "WR.IRQ_EN_CLR" 0x92#8, dataRow "WR.IRQ_EN_XOR" 0x93#8, fixedRow "RD.IRQ_ST" 0x14#8,
   dataRow "WR.IRQ_ST" 0x94#8] ++
  [fixedRow "RD.C1_ST" 0x18#8, fixedRow "RD.C1_VTOR" 0x19#8, fixedRow "RD.C1_SP" 0x1A#8,
   fixedRow "RD.C1_PC" 0x1B#8, ⟨"RD.VDT", 0x4000000000#40, 0xC0FFFFFFFF#40⟩]

/-- The word selects the row (R93). -/
def OpcodeRow.selects (r : OpcodeRow) (T : TWord) : Bool := T &&& r.mask == r.matchBits

/-- No word selects both rows: the two patterns differ in a bit both masks fix. -/
def OpcodeRow.disjoint (r q : OpcodeRow) : Bool := r.matchBits &&& q.mask &&& r.mask != q.matchBits &&& r.mask &&& q.mask

/-- The number of an instruction's row in `opcodeRows`. -/
def rowNumber : Instr → Nat
  | .rdCpuid => 0
  | .rdSt => 1
  | .wrTx _ => 2
  | .rdRx => 3
  | .wrWake _ => 4
  | .wrWait _ => 5
  | .rdBsqVtor => 6
  | .wrBsqVtor _ => 7
  | .rdBsqSp => 8
  | .wrBsqSp _ => 9
  | .rdBsqEntry => 10
  | .wrBsqEntry _ => 11
  | .wrBsqCtrl _ => 12
  | .rdBsqSt => 13
  | .rdBsqResends => 14
  | .rdIrqEn => 15
  | .wrIrqEn _ => 16
  | .wrIrqEnSet _ => 17
  | .wrIrqEnClr _ => 18
  | .wrIrqEnXor _ => 19
  | .rdIrqSt => 20
  | .wrIrqSt _ => 21
  | .rdC1St => 22
  | .rdC1Vtor => 23
  | .rdC1Sp => 24
  | .rdC1Pc => 25
  | .rdVdt _ => 26

end Sys2Proof
end

