-- ==== Sys2Proof/Config.lean ====
section
/-! DEFINITION. The launch parameters of the block (00_scope.md R6): the OPEN parameters as one record of plain
data, the scripts the cores run (30_encoding.md R101), and the one value the spec leaves free. -/

namespace Sys2Proof

/-- A name a script line binds a returned word to (R101, `-> name`); names are numbered. -/
abbrev Name := Nat

/-- What a script writes where it needs a word: a literal, a bound name, or words put together by the operators of
R7: a slice (zero-extended), `~`, `&`, `|`, `^`, `+`, `<<` (R101; program P1 of 95_test_vectors.md sends `v ^ 0xFF`).
Log entry 32. -/
inductive Operand where
  | lit (w : Word)
  | bound (n : Name)
  | slice (a : Operand) (hi lo : Nat)
  | not (a : Operand)
  | and (a b : Operand)
  | or (a b : Operand)
  | xor (a b : Operand)
  | add (a b : Operand)
  | shl (a : Operand) (k : Nat)
deriving DecidableEq, Repr

/-- A condition on bound names (R101): two words compared by `==` or `!=` of R7, a word that is (for `BOOT_SW`, R226)
the acknowledgement expected at step `k` for command word `c`, and such conditions joined. With `eq` to literals,
`not`, `and` and `or` every Boolean function of the bound words can be written. Log entry 32. -/
inductive Cond where
  | eq (a b : Operand)
  | ne (a b : Operand)
  | isAck (n : Name) (k : BitVec 3) (c : Operand)
  | not (a : Cond)
  | and (a b : Cond)
  | or (a b : Cond)
deriving DecidableEq, Repr

/-- One line of a script: a transaction word given as its opcode byte `T[39:32]` and its data operand, with the
name the returned word is bound to; a core exception `EXC c e` (R266); a report `REPORT c v` (R228). The core is
the one whose stream holds the line. -/
inductive Line where
  | access (opcode : BitVec 8) (d : Operand) (dst : Option Name)
  | exc (e : Nat)
  | report (v : Operand)
deriving DecidableEq, Repr

/-- What is left of a script (R101): lines, and the control forms `loop ... until`, `repeat N times`, the
conditional of R223 and R226, and the endless loop of R230. A value of this type is a POSITION in a script: the
rest still to run. `untilTest` is the point at the end of a loop's body where its condition is tested. -/
inductive Script where
  | done
  | line (l : Line) (rest : Script)
  | loop (body : Script) (stop : Cond) (rest : Script)
  | untilTest (body : Script) (stop : Cond) (rest : Script)
  | forever (body : Script)
  | repeatN (n : Nat) (body : Script) (rest : Script)
  | ifThen (c : Cond) (body : Script) (rest : Script)
deriving DecidableEq, Repr

/-- The behaviour of a handler (42_dispatch_table.md R201; `HKIND` of R6). DESIGN CHOICE (log entry 36): R201 (c) speaks
of a finite script, R192 does not check it, and no rule gives an outcome for another one. `app` takes any script and
runs it; one with an endless loop never comes to `HRET`. -/
inductive HandlerKind where
  | trapLoop
  | clearAndSignal (n : Nat)
  | app (body : Script)
deriving DecidableEq, Repr

/-- Who drives port 1 before launch: the reference responder or an arbitrary simulated peer (R6 `PEER`, R177). -/
inductive Peer where
  | pbl
  | env
deriving DecidableEq, Repr

/-- The launch configuration: every OPEN parameter of R6 as plain data, so that a statement about every state is a
statement about every configuration. A function of R6 is held as the list of its exceptions to a default:
`ACK` to the echo, `PROG` to the Entry Runner of R230, `VDT_CFG.h` to "not configured"; `HKIND` is a plain list. -/
structure Config where
  /-- `NVEC`: entries of the vector table. -/
  nvec : Nat
  /-- `NCOREX`: entries that belong to the core. -/
  ncorex : Nat
  /-- `VT_BASE`: byte address of table entry 0. -/
  vtBase : Word
  /-- `DEFAULT_HANDLER`. -/
  defaultHandler : Word
  /-- `VDT_CFG.sp0`: the word of index 0. -/
  sp0 : Word
  /-- `VDT_CFG.h`: the configured entries. -/
  handlers : List (Nat × Word)
  /-- `HKIND`. -/
  kinds : List (Word × HandlerKind)
  /-- `ACK(k, c)` where it is not `c`. -/
  ackOther : List ((BitVec 3 × Word) × Word)
  /-- `PEER`. -/
  peer : Peer
  /-- `EVT_LATCH`. -/
  evtLatch : Bool
  /-- `PROG(e)` where it is not the Entry Runner. -/
  progs : List (Word × Script)
  /-- The background script of core 0. -/
  script0 : Script
  /-- `MBX_BASE`: left to the platform (R6, R64); no rule reads it. -/
  mbxBase : Word
deriving DecidableEq, Repr

/-- The defaults of R6 with the test table of 95_test_vectors.md: the configuration its vectors use. DESIGN CHOICE (log
entry 2), unsafe for the parameters R6 gives no default. Two values are in neither: core 0's background script, empty
(log entry 2), and `MBX_BASE`, which R6 and R64 leave to the platform and is 0 here, DESIGN CHOICE (log entry 34). -/
def Config.reference : Config where
  nvec := 48
  ncorex := 16
  vtBase := 0x20000100#32
  defaultHandler := 0x10000100#32
  sp0 := 0x20002000#32
  handlers := [(18, 0x10000300#32), (19, 0x10000320#32), (22, 0x10000340#32)]
  kinds :=
    [(0x10000100#32, .trapLoop), (0x10000300#32, .clearAndSignal 2), (0x10000320#32, .app .done),
     (0x10000340#32, .app (.line (.access 0x94#8 (.lit 0x00000040#32) none) (.line (.report (.lit 0x00000066#32)) .done)))]
  ackOther := []
  peer := .pbl
  evtLatch := true
  progs := []
  script0 := .done
  mbxBase := 0#32

/-- FREE VALUE (log entry 3): the 32-bit program counter value of the `n`-th point at which a stream is interrupted.
R23 and 91_not_in_source.md N6 give no rule for a core's own program counter between the block's events. Safe. -/
opaque Config.resumePoint : Nat → Word

end Sys2Proof
end

