-- ==== Sys2Proof/Machine/Pseudo.lean ====
section
/-! DEFINITION. Scripts as data: how a script is put together, the pseudo-operations of 43_protocol_pseudo_ops.md
and the Entry Runner. They are the spec's reference software (R4), sequences of transactions, not hardware. -/

namespace Sys2Proof.Machine

/-- `a` and then `b`. -/
def seqScript : Script → Script → Script
  | .done, b => b
  | .line l r, b => .line l (seqScript r b)
  | .loop body c r, b => .loop body c (seqScript r b)
  | .untilTest body c r, b => .untilTest body c (seqScript r b)
  | .forever body, _ => .forever body
  | .repeatN n body r, b => .repeatN n body (seqScript r b)
  | .ifThen c body r, b => .ifThen c body (seqScript r b)

/-- A read transaction by its opcode byte, binding the returned word. -/
def readLine (opcode : BitVec 8) (dst : Name) (rest : Script) : Script :=
  .line (.access opcode (.lit 0#32) (some dst)) rest

/-- A write transaction by its opcode byte. -/
def writeLine (opcode : BitVec 8) (d : Operand) (rest : Script) : Script :=
  .line (.access opcode d none) rest

/-- The condition `n[hi:lo] == v` on a bound name (R101, R102). -/
def bitsAre (n : Name) (hi lo : Nat) (v : Word) : Cond := .eq (.slice (.bound n) hi lo) (.lit v)

/-- `RD.ST -> s`, the only line of the polling loops (R220). -/
def pollStatus (s : Name) : Script := readLine 0x01#8 s .done

/-- `SEND v` (R221): poll until `TX_FULL` (`s[3]`) is clear, `WR.TX v`, `WR.WAKE 0`. -/
def sendScript (s : Name) (v : Operand) : Script :=
  .loop (pollStatus s) (bitsAre s 3 3 0#32) (writeLine 0x82#8 v (writeLine 0x84#8 (.lit 0#32) .done))

/-- `RECV -> v` (R222): poll until `RX_EMPTY` (`s[0]`) is clear, `RD.RX -> v`. -/
def recvScript (s v : Name) : Script :=
  .loop (pollStatus s) (bitsAre s 0 0 0#32) (readLine 0x03#8 v .done)

/-- `DRAIN` (R223): read the status, pop and discard while the inbound slot is not empty. -/
def drainScript (s : Name) : Script :=
  .loop
    (readLine 0x01#8 s
      (.ifThen (bitsAre s 0 0 0#32) (.line (.access 0x03#8 (.lit 0#32) none) .done) .done))
    (bitsAre s 0 0 1#32) .done

/-- `WAKE` (R224). -/
def wakeScript : Script := writeLine 0x84#8 (.lit 0#32) .done

/-- `BOOT vt, sp, entry` (R225), with the hardware sequencer. -/
def bootScript (b : Name) (vt sp entry : Operand) : Script :=
  writeLine 0x88#8 vt (writeLine 0x89#8 sp (writeLine 0x8A#8 entry (writeLine 0x8B#8 (.lit 1#32)
    (.loop (readLine 0x0C#8 b .done) (bitsAre b 2 0 6#32) .done))))

/-- One handshake step of `BOOT_SW` (R226): (for a probe: drain, wake), send, receive, until the word received is
the acknowledgement expected. -/
def bootSwStep (s a : Name) (k : BitVec 3) (cmd : Operand) : Script :=
  .loop
    (seqScript (if k ≤ 1#3 then seqScript (drainScript s) wakeScript else .done)
      (seqScript (sendScript s cmd) (recvScript s a)))
    (.isAck a k cmd) .done

/-- `BOOT_SW vt, sp, entry` (R226): the six steps in order. -/
def bootSwScript (s a : Name) (vt sp entry : Operand) : Script :=
  seqScript (bootSwStep s a 0#3 (.lit 0#32)) (seqScript (bootSwStep s a 1#3 (.lit 0#32))
    (seqScript (bootSwStep s a 2#3 (.lit 1#32)) (seqScript (bootSwStep s a 3#3 vt)
      (seqScript (bootSwStep s a 4#3 sp) (bootSwStep s a 5#3 entry)))))

/-- `LOOKUP i -> h` (R227). -/
def lookupScript (i : BitVec 6) (h : Name) : Script :=
  readLine ((1#2 : BitVec 2) ++ i) h .done

/-- `REPORT v` (R228). -/
def reportScript (v : Operand) : Script := .line (.report v) .done

/-- `IRQ_ACK n` (R229): `WR.IRQ_ST (1 << n)`. -/
def irqAckScript (n : Nat) : Script := writeLine 0x94#8 (.lit (1#32 <<< n)) .done

/-- The Core-1 Entry Runner (R230): report the core identifier, then for ever receive a word and report it. -/
def entryRunner : Script :=
  readLine 0x00#8 0 (.line (.report (.bound 0)) (.forever (seqScript (recvScript 1 2) (reportScript (.bound 2)))))

end Sys2Proof.Machine
end

