-- ==== Sys2Proof/Machine/Params.lean ====
section
/-! DEFINITION. The functions of the launch parameters: the vector table and its construction, handler kinds, the
acknowledgement, the line mask, core 1's program. Spec: 00_scope.md R6, R12; 42_dispatch_table.md R191, R193,
R201; 41_boot_sequencer.md R150, R157, R170, R176. -/

namespace Sys2Proof.Machine

/-- The value a list of pairs gives a key: that of the first pair with the key. -/
def lookupKey {α β : Type} [DecidableEq α] (l : List (α × β)) (k : α) : Option β :=
  (l.find? (fun e => decide (e.1 = k))).map (·.2)

/-- `NIRQ = NVEC - NCOREX` (R6). -/
def nirq (c : Config) : Nat := c.nvec - c.ncorex

/-- `MASK_IRQ` (R12): bits `NIRQ-1..0` set, all others clear. -/
def maskIrq (c : Config) : Word := BitVec.ofNat 32 (2 ^ nirq c - 1)

/-- `VDT[i]` (R191): the configured handler, or the default handler; index 0 holds the initial-stack word. -/
def vdt (c : Config) (i : Nat) : Word :=
  if i = 0 then c.sp0 else (lookupKey c.handlers i).getD c.defaultHandler

/-- `HKIND(h)` (R6, R201). -/
def hkind (c : Config) (h : Word) : Option HandlerKind := lookupKey c.kinds h

/-- `ACK(k, c)` (R6, R157): the configured value, or the echo of the command word. -/
def ackFor (c : Config) (k : BitVec 3) (cmd : Word) : Word := (lookupKey c.ackOther (k, cmd)).getD cmd

/-- `PROG(e)` (R6, R176): the configured script, or the Entry Runner of R230. -/
def progFor (c : Config) (e : Word) : Script := (lookupKey c.progs e).getD entryRunner

/-- `CMD_PROBE` (R6). -/
def cmdProbe : Word := 0#32

/-- `CMD_START` (R6). -/
def cmdStart : Word := 1#32

/-- `EXPECT(k)` of the responder (R170): steps 0 and 1 a probe, step 2 the start command, at steps 3 to 5 any word. -/
def expectedWord (k : BitVec 3) : Option Word :=
  match k.toNat with
  | 0 => some cmdProbe
  | 1 => some cmdProbe
  | 2 => some cmdStart
  | _ => none

/-- The script of a handler of a kind (R201): a trap loop issues nothing, clear-and-signal clears its line and
wakes, an application handler runs its own. -/
def handlerScript : HandlerKind → Script
  | .trapLoop => .done
  | .clearAndSignal n => seqScript (irqAckScript n) wakeScript
  | .app body => body

/-- `lowbit(m)` (R12): the least `n` with `m[n] == 1`; `none` for the zero word, where R12 leaves it undefined. -/
def lowbit (m : Word) : Option Nat := (List.range 32).find? (fun n => m.getLsbD n)

end Sys2Proof.Machine
end

