-- ==== Sys2Proof/WellFormed.lean ====
section
/-! DEFINITION. What is checked before a run: the operand range of a transaction (30_encoding.md R92) and the
well-formedness of a launch configuration (42_dispatch_table.md R192). -/

namespace Sys2Proof

open Machine

/-- The table index of `RD.VDT` is 6 bits wide (R92); every other operand is bounded by its type. -/
def Instr.wf : Instr → Bool
  | .rdVdt idx => decide (idx < 64)
  | _ => true

/-- Which condition of R192 a launch configuration breaks. -/
inductive BadConfig where
  /-- Not `2 <= NCOREX <= NVEC <= 64`. -/
  | geometry
  /-- More than 32 external lines. -/
  | tooManyLines
  /-- `VT_BASE` is no multiple of 4, or the table runs past the end of the address space. -/
  | tableBase
  /-- `DEFAULT_HANDLER == 0`. -/
  | nullDefault
  /-- A configured index outside `1..NVEC-1` (R191). -/
  | configuredIndex
  /-- A configured handler is the null reference. -/
  | nullEntry
  /-- `HKIND` is not defined on some `VDT[i]`, `1 <= i < NVEC`. -/
  | handlerKind
  /-- `HKIND(DEFAULT_HANDLER)` is not `TrapLoop`. -/
  | defaultKind
deriving DecidableEq, Repr

/-- The first condition of R192 that the configuration breaks; `none` when it is well formed. -/
def configProblem (c : Config) : Option BadConfig :=
  if !(decide (2 ≤ c.ncorex) && decide (c.ncorex ≤ c.nvec) && decide (c.nvec ≤ 64)) then some .geometry
  else if decide (32 < c.nvec - c.ncorex) then some .tooManyLines
  else if !(decide (c.vtBase.toNat % 4 = 0) && decide (c.vtBase.toNat + 4 * c.nvec ≤ 2 ^ 32)) then some .tableBase
  else if decide (c.defaultHandler = 0#32) then some .nullDefault
  else if !(c.handlers.all fun e => decide (0 < e.1) && decide (e.1 < c.nvec)) then some .configuredIndex
  else if c.handlers.any fun e => decide (e.2 = 0#32) then some .nullEntry
  else if !((List.range c.nvec).all fun i => decide (i = 0) || (hkind c (vdt c i)).isSome) then some .handlerKind
  else if decide (hkind c c.defaultHandler ≠ some .trapLoop) then some .defaultKind
  else none

/-- The launch configuration is well formed (R192). -/
def Config.wf (c : Config) : Bool := (configProblem c).isNone

end Sys2Proof
end

