-- ==== Sys2Proof/Machine/State.lean ====
section
/-! DEFINITION. The state of the machine: every element of 10_state.md R20, the launch configuration, and the
fields the model adds to make one deterministic step of the interleaving; the faults and refusals; reset. -/

namespace Sys2Proof.Machine

/-- The eight word registers `x[0]` to `x[7]` by name (R20, R21). -/
inductive RegName where
  | slot0
  | slot1
  | bsqVtor
  | bsqSp
  | bsqEntry
  | c1Vtor
  | c1Sp
  | c1Pc
deriving DecidableEq, Repr

/-- A word register: its 32 bits, and whether a step has written it since reset (R8, R22). -/
structure Reg where
  val : Word
  written : Bool
deriving DecidableEq, Repr

/-- A word register after `RESET`: unwritten (R20). The bits 0 are a DESIGN CHOICE (log entry 4): no rule reads
them, since reading an unwritten register raises `UnwrittenRegister`. -/
def Reg.unwritten : Reg := ⟨0#32, false⟩

/-- The word registers `x[0..7]` (R20, R21). -/
structure WordRegs where
  slot0 : Reg
  slot1 : Reg
  bsqVtor : Reg
  bsqSp : Reg
  bsqEntry : Reg
  c1Vtor : Reg
  c1Sp : Reg
  c1Pc : Reg
deriving DecidableEq, Repr

/-- `BSQ.STATE`, in the order of its codes 0 to 6 (R39). -/
inductive BsqState where
  | idle
  | draining
  | startSent
  | vtableSent
  | stackSent
  | entrySent
  | peerRunning
deriving DecidableEq, Repr

/-- `BSQ.PHASE`, in the order of its codes 0 to 4 (R39). -/
inductive BsqPhase where
  | drain
  | wake
  | send
  | sendWake
  | recv
deriving DecidableEq, Repr

/-- `PBL.PHASE`, in the order of its codes 0 to 3 (R43). -/
inductive PblPhase where
  | recv
  | ack
  | ackWake
  | launch
deriving DecidableEq, Repr

/-- The boot sequencer's registers (R20). -/
structure Bsq where
  state : BsqState
  k : BitVec 3
  phase : BsqPhase
  desync : Bool
  resends : Word
deriving DecidableEq, Repr

/-- The responder's registers (R20). -/
structure Pbl where
  k : BitVec 3
  phase : PblPhase
  w : Word
deriving DecidableEq, Repr

/-- Who issued a wake (R36 `Wake(agent)`, R125, R154, R156, R173). -/
inductive WakeAgent where
  | core (p : Port)
  | bsq
  | pbl
deriving DecidableEq, Repr

/-- An entry of the event history (R36). -/
inductive HistEntry where
  | push (d : Port) (v : Word)
  | pop (d : Port) (v : Word)
  | wake (a : WakeAgent)
  | edge (n : Nat)
  | dispatch (c : Port) (idx : Nat) (h : Word)
  | ret (c : Port)
  | launch (vt sp pc : Word)
  | resend (k : BitVec 3)
  | report (c : Port) (v : Word)
deriving DecidableEq, Repr

/-- What a core's stream still has to do and the names it has bound (R101). -/
structure Stream where
  script : Script
  names : List (Name × Word)
deriving DecidableEq, Repr

/-- A stream with nothing to do. -/
def Stream.empty : Stream := ⟨.done, []⟩

/-- `RESUME[c]` (R263): the position in the background script with its bound names, and the program counter value
that stands for it. -/
structure Resume where
  pc : Word
  stream : Stream
deriving DecidableEq, Repr

/-- The mailbox transactions an `ENV` peer may issue (R177). -/
inductive EnvOp where
  | rdCpuid
  | rdSt
  | wrTx (d : Word)
  | rdRx
  | wrWake (d : Word)
deriving DecidableEq, Repr

/-- A step of one agent (R13): what the interleaving names. `core c` is the next step of core `c`'s own stream (a
transaction, `EXC`, `REPORT`, or a control form of its script); the rest are the unencoded steps of R100. -/
inductive Event where
  | reset
  | readyUp
  | edge (n : Nat)
  | dispatch (c : Port)
  | hret (c : Port)
  | trap (c : Port)
  | waitResume (c : Port)
  | bsqStep
  | pblStep
  | env (op : EnvOp)
  | core (c : Port)
deriving DecidableEq, Repr

/-- How the mailbox channel was misused (R252). -/
inductive CorruptKind where
  | writeWhileFull
  | readWhileEmpty
deriving DecidableEq, Repr

/-- Why a step ends in a fault: the spec's `raise` (R11, R252). The machine stops; the spec leaves the state after
a fault unspecified, so every one of them is safe (no claim about a later state can be proved). -/
inductive Fault where
  /-- Raised by any transaction while `READY == 0` (R120, R252). Safe. -/
  | notReady (p : Port) (T : TWord)
  /-- Raised by `WR.TX`, `RD.RX`, `WR.WAKE`, `WR.WAIT` on port 0 while the sequencer is busy (R120, R160). Safe. -/
  | seqBusyLockout (T : TWord)
  /-- Raised by `WR.TX` on a full slot and `RD.RX` on an empty one (R123, R124). Safe. -/
  | channelCorrupt (d : Port) (how : CorruptKind)
  /-- Raised by `WR.WAIT` inside a handler (R126). Safe. -/
  | waitInHandler (p : Port)
  /-- Raised by a read or use of a word register nothing has written, and by a read of core 1's before launch: the
  spec's own fault (60_exceptions.md R252; R8, R22, R44, R141 to R147, R162 to R164). Safe. -/
  | unwrittenRegister (r : RegName)
  /-- Raised by a write of a sequencer register once the sequencer has started (R142, R144, R146). Safe. -/
  | seqRegLocked (r : RegName)
  /-- Raised by a second `GO` (R147). Safe. -/
  | seqReinvoke (st : BsqState)
  /-- Raised by `GO` and by the launch when the table address is not `VT_BASE` (R147, R176). Safe. -/
  | vtorMismatch (v : Word)
  /-- Raised by the responder on a word that deviates from the sequence (R171, R174). Safe. -/
  | handshakeDeviation (k : BitVec 3) (w : Word)
  /-- Raised by `EXC` inside a handler (R266). Safe. -/
  | nestedException (c : Port) (e : Nat)
  /-- Raised by a vector fetch outside the table: `MemRead` is defined on the table's words only (R9, R60). No
  reachable state of a well-formed launch raises it. Safe. -/
  | noMemory (addr : Word)
deriving DecidableEq, Repr

/-- Why a step is refused: the spec's `refuse` (R11, R253), and the script positions that have no meaning. -/
inductive Refusal where
  /-- Raised for a reserved transaction word (R97, R253). Safe: the source does not say what hardware does. -/
  | reservedEncoding (T : TWord)
  /-- Raised for a `BSQ_*` transaction on port 1 (R98, R253). Safe. -/
  | portRights (T : TWord) (p : Port)
  /-- Raised for `RD.VDT` with `idx >= NVEC` (R98, R190). Safe. -/
  | vdtIndexRange (idx : Nat)
  /-- Raised by every step of a launch whose configuration is not well formed (R192). Safe. -/
  | badConfiguration (why : BadConfig)
  /-- Raised by a script line `EXC c e` with `e` outside `1..NCOREX-1` (R266, U18 of 93). Safe. -/
  | exceptionIndex (c : Port) (e : Nat)
  /-- Raised by a script line or condition without a value: it uses a name no line has bound (R101, log entry 13), or a
  slice of bits that no word has (R7, log entry 35). Safe. -/
  | undefinedOperand (c : Port)
  /-- Raised by exec for an instruction without a meaning; none is left. Safe. -/
  | notModelled (mnemonic : String)
deriving DecidableEq, Repr

/-- The state of the machine. The fields down to `hist` are those of R20; `cfg` is the launch configuration, which no
step changes; the rest are the model's own (log entries 1, 3, 6, 8, 10). -/
structure State where
  /-- `x[0..7]`. -/
  x : WordRegs
  /-- `FULL[d]`. -/
  full : Pair Bool
  /-- `EVT[c]`. -/
  evt : Pair Bool
  /-- `PARKED[c]`. -/
  parked : Pair Bool
  /-- `BSQ.STATE`, `BSQ.K`, `BSQ.PHASE`, `BSQ.DESYNC`, `BSQ.RESENDS`. -/
  bsq : Bsq
  /-- `PBL.K`, `PBL.PHASE`, `PBL.W`. -/
  pbl : Pbl
  /-- `C1_RUNNING`. -/
  c1Running : Bool
  /-- `EN[c]`. -/
  en : Pair Word
  /-- `COND`. -/
  cond : Word
  /-- `ACTIVE[c]`: the vector index of the handler core `c` runs, or none. -/
  active : Pair (Option Nat)
  /-- `RESUME[c]`. -/
  resume : Pair Resume
  /-- `pc[c]`: the last program counter value the block produced for core `c` (R23). -/
  pc : Pair Word
  /-- `READY`. -/
  ready : Bool
  /-- `FAULTS`: a list without repeats. -/
  faults : List Fault
  /-- `HIST`, oldest entry first. -/
  hist : List HistEntry
  /-- The launch configuration (R6): constant. -/
  cfg : Config
  /-- What each core is executing: its background stream, or its handler's while one is active. -/
  streams : Pair Stream
  /-- The interleaving still to come: the next event is the next step of the machine (R14). -/
  schedule : List Event
  /-- The port that carries the transaction being executed (R61, R90). -/
  port : Port
  /-- The word the last transaction returned to its issuing agent; none after a write (R91, R95). -/
  rdata : Option Word
  /-- The mark a refusal sets for the rest of the run (R11 (d)); `RESET` starts a new run without it (R300). -/
  refusedMark : Bool
  /-- How many interruption points have been used (the counter of the free value `Config.resumePoint`). -/
  fresh : Nat
deriving DecidableEq, Repr

/-- The state after `RESET` (the last column of R20) of a launch with configuration `c`, with no event scheduled.
`PBL.W`, `RESUME` and `pc` are unwritten in R20; the bits 0 here are a DESIGN CHOICE (log entry 5). -/
def State.initial (c : Config) : State where
  x :=
    { slot0 := .unwritten, slot1 := .unwritten, bsqVtor := .unwritten, bsqSp := .unwritten,
      bsqEntry := .unwritten, c1Vtor := .unwritten, c1Sp := .unwritten, c1Pc := .unwritten }
  full := ⟨false, false⟩
  evt := ⟨false, false⟩
  parked := ⟨false, false⟩
  bsq := { state := .idle, k := 0#3, phase := .drain, desync := false, resends := 0#32 }
  pbl := { k := 0#3, phase := .recv, w := 0#32 }
  c1Running := false
  en := ⟨0#32, 0#32⟩
  cond := 0#32
  active := ⟨none, none⟩
  resume := ⟨⟨0#32, .empty⟩, ⟨0#32, .empty⟩⟩
  pc := ⟨0#32, 0#32⟩
  ready := false
  faults := []
  hist := []
  cfg := c
  streams := ⟨⟨c.script0, []⟩, .empty⟩
  schedule := []
  port := .p0
  rdata := none
  refusedMark := false
  fresh := 0

/-- The machine right after reset, with the reference configuration (log entry 2). -/
def State.reset : State := State.initial Config.reference

end Sys2Proof.Machine
end

