-- ==== Sys2Proof/Machine/Ops.lean ====
section
/-! DEFINITION. The shared operations: word registers, the slots, the wake, the history, the checks common to every
transaction, what a transaction returns, and taking and leaving a handler. -/

namespace Sys2Proof.Machine

/-- The outcome of a step or of a meaning. -/
abbrev Result := Host.Outcome State Fault Refusal

/-- `x[i]` with its written mark, by name. -/
def WordRegs.get (x : WordRegs) : RegName → Reg
  | .slot0 => x.slot0
  | .slot1 => x.slot1
  | .bsqVtor => x.bsqVtor
  | .bsqSp => x.bsqSp
  | .bsqEntry => x.bsqEntry
  | .c1Vtor => x.c1Vtor
  | .c1Sp => x.c1Sp
  | .c1Pc => x.c1Pc

/-- The registers with `x[i] <- v`: from now on written (R8). -/
def WordRegs.write (x : WordRegs) (r : RegName) (v : Word) : WordRegs :=
  match r with
  | .slot0 => { x with slot0 := ⟨v, true⟩ }
  | .slot1 => { x with slot1 := ⟨v, true⟩ }
  | .bsqVtor => { x with bsqVtor := ⟨v, true⟩ }
  | .bsqSp => { x with bsqSp := ⟨v, true⟩ }
  | .bsqEntry => { x with bsqEntry := ⟨v, true⟩ }
  | .c1Vtor => { x with c1Vtor := ⟨v, true⟩ }
  | .c1Sp => { x with c1Sp := ⟨v, true⟩ }
  | .c1Pc => { x with c1Pc := ⟨v, true⟩ }

/-- The slot of direction `d`: `x[d]` (R18, R20). -/
def slotOf : Port → RegName
  | .p0 => .slot0
  | .p1 => .slot1

/-- `x[i] <- v`. -/
def State.writeReg (s : State) (r : RegName) (v : Word) : State := { s with x := s.x.write r v }

/-- Read `x[i]` and go on with its value; `UnwrittenRegister` if nothing has written it (R8, R22, R252). -/
def State.readReg (s : State) (r : RegName) (k : Word → Result) : Result :=
  if (s.x.get r).written then k (s.x.get r).val else .fault (.unwrittenRegister r)

/-- `HIST <- HIST ++ [e]` (R36). -/
def State.log (s : State) (e : HistEntry) : State := { s with hist := s.hist ++ [e] }

/-- Push `v` into direction `d` (R123, R155, R172): the word, the full flag and the history entry, in one step. -/
def State.push (s : State) (d : Port) (v : Word) : State :=
  { s with x := s.x.write (slotOf d) v, full := s.full.set d true, hist := s.hist ++ [.push d v] }

/-- Pop direction `d`, whose word is `v` (R124, R153, R157, R171): the register keeps its bits (R124). -/
def State.pop (s : State) (d : Port) (v : Word) : State :=
  { s with full := s.full.set d false, hist := s.hist ++ [.pop d v] }

/-- The event latches after a wake (R125): every core's when wakes are remembered, else the parked cores'. -/
def wokenLatches (s : State) : Pair Bool :=
  s.evt.map fun c e => e || s.cfg.evtLatch || s.parked.get c

/-- The broadcast wake (R125, R154, R156, R173). -/
def State.wake (s : State) (a : WakeAgent) : State :=
  { s with evt := wokenLatches s, hist := s.hist ++ [.wake a] }

/-- The sequencer is busy: `BSQ.STATE` is 1..5 (R39, R160). -/
def BsqState.busy : BsqState → Bool
  | .idle => false
  | .peerRunning => false
  | _ => true

/-- The transactions of the port-0 lockout (R120 step 4). -/
def lockoutListed : Instr → Bool
  | .wrTx _ => true
  | .rdRx => true
  | .wrWake _ => true
  | .wrWait _ => true
  | _ => false

/-- The transactions admitted on port 0 only: offsets `0x08..0x0D` (R98). -/
def port0Only : Instr → Bool
  | .rdBsqVtor => true
  | .wrBsqVtor _ => true
  | .rdBsqSp => true
  | .wrBsqSp _ => true
  | .rdBsqEntry => true
  | .wrBsqEntry _ => true
  | .wrBsqCtrl _ => true
  | .rdBsqSt => true
  | .rdBsqResends => true
  | _ => false

/-- R120 step 2: the refusal of a decoded transaction on a port, if any. -/
def rightsProblem (c : Config) (p : Port) (i : Instr) : Option Refusal :=
  if port0Only i && p == .p1 then some (.portRights (encode i) p)
  else match i with
    | .rdVdt idx => if c.nvec ≤ idx then some (.vdtIndexRange idx) else none
    | _ => none

/-- R120 steps 3 and 4: the fault of a transaction that the state does not admit, if any. -/
def admissionProblem (s : State) (i : Instr) : Option Fault :=
  if !s.ready then some (.notReady s.port (encode i))
  else if s.port == .p0 && lockoutListed i && s.bsq.state.busy then some (.seqBusyLockout (encode i))
  else none

/-- The checks every transaction passes before its own rule, in R120's order (the word is decoded by now). -/
def checked (i : Instr) (s : State) (own : Result) : Result :=
  match rightsProblem s.cfg s.port i with
  | some r => .refused r
  | none =>
    match admissionProblem s i with
    | some f => .fault f
    | none => own

/-- A read returns one word to the issuing agent (R91, R95). -/
def answer (v : Word) (s : State) : Result := .next { s with rdata := some v }

/-- A write returns nothing (R91, R95). -/
def finish (s : State) : Result := .next { s with rdata := none }

/-- A step whose guard does not hold: nothing changes (R11 `hold`). -/
def hold (s : State) : Result := .next s

/-- Core `c` runs: core 0 always, core 1 once launched (R29, R262, R283). -/
def coreRuns (s : State) : Port → Bool
  | .p0 => true
  | .p1 => s.c1Running

/-- The lines pending and enabled for core `c` (R261). -/
def pendingLines (s : State) (c : Port) : Word := s.cond &&& s.en.get c

/-- `DISPATCH c` is enabled (R262, R270). -/
def dispatchEnabled (s : State) (c : Port) : Bool :=
  s.ready && coreRuns s c && (s.active.get c).isNone && pendingLines s c != 0#32

/-- Main memory as the spec lays it out: a list of bytes at addresses. An address no entry lists has no byte: R60
gives no transaction and no vector fetch that reaches it. -/
abbrev Memory := List Host.Cell

/-- The canonical form: addresses strictly rising. (An unlisted address reads as no value, so no entry can repeat
what an unlisted address reads as.) -/
def Memory.wf : Memory → Bool
  | [] => true
  | [_] => true
  | a :: b :: r => decide (a.1 < b.1) && Memory.wf (b :: r)

/-- The byte at an address, if the memory has one there. -/
def Memory.byteAt (m : Memory) (a : Nat) : Option Byte := lookupKey m a

/-- Byte `j` of a word, little-endian (R65). -/
def byteOf (v : Word) (j : Nat) : Byte := v.extractLsb' (8 * j) 8

/-- The image of the vector table in main memory (R62, R65): byte `VT_BASE + 4*i + j` holds byte `j` of `VDT[i]`.
It is a constant of the launch (R45, R75); no step writes memory (R9). -/
def tableImage (c : Config) : Memory :=
  (List.range c.nvec).flatMap fun i =>
    (List.range 4).map fun j => (c.vtBase.toNat + 4 * i + j, byteOf (vdt c i) j)

/-- `MemRead(addr, 4)` (R9): the four bytes at `addr`, little-endian (R65). -/
def memRead (m : Memory) (addr : Word) : Option Word :=
  match m.byteAt addr.toNat, m.byteAt (addr.toNat + 1), m.byteAt (addr.toNat + 2), m.byteAt (addr.toNat + 3) with
  | some b0, some b1, some b2, some b3 => some (b3 ++ b2 ++ b1 ++ b0)
  | _, _, _, _ => none

/-- The address of the vector fetch: `VT_BASE + 4*idx` modulo 2^32 (R62, R232). -/
def vectorAddress (c : Config) (idx : Nat) : Word := c.vtBase + BitVec.ofNat 32 (4 * idx)

/-- TAKING AN EXCEPTION OR INTERRUPT: the one entry operation of `DISPATCH` and `EXC` (R262, R266). The handler
reference is fetched from the table; `RESUME[c]` takes the point of the interrupted stream, `ACTIVE[c]` the index,
`pc[c]` the handler; the core's stream becomes the handler's script. No enable and no condition changes. -/
def enterHandler (c : Port) (idx : Nat) (s : State) : Result :=
  match memRead (tableImage s.cfg) (vectorAddress s.cfg idx) with
  | none => .fault (.noMemory (vectorAddress s.cfg idx))
  | some h =>
    match hkind s.cfg h with
    | none => .refused (.badConfiguration .handlerKind)
    | some kind =>
      .next { s with
        resume := s.resume.set c ⟨Config.resumePoint s.fresh, s.streams.get c⟩
        fresh := s.fresh + 1
        active := s.active.set c (some idx)
        pc := s.pc.set c h
        streams := s.streams.set c ⟨handlerScript kind, []⟩
        hist := s.hist ++ [.dispatch c idx h] }

/-- RETURNING FROM A HANDLER (R267): no handler is active, the program counter and the stream are those of
`RESUME[c]`. -/
def leaveHandler (c : Port) (s : State) : State :=
  { s with
    active := s.active.set c none
    pc := s.pc.set c (s.resume.get c).pc
    streams := s.streams.set c (s.resume.get c).stream
    hist := s.hist ++ [.ret c] }

/-- The active handler of core `c` is a trap loop (R269). -/
def inTrapLoop (s : State) (c : Port) : Bool :=
  match s.active.get c with
  | none => false
  | some idx => decide (hkind s.cfg (vdt s.cfg idx) = some .trapLoop)

end Sys2Proof.Machine
end

