-- ==== Sys2Proof/Machine/Responder.lean ====
section
/-! DEFINITION. The peer bootstrap logic's own steps, one per phase, and the launch of core 1.
Spec: 41_boot_sequencer.md R170 to R176. -/

namespace Sys2Proof.Machine

/-- The register that the word of step `k` is kept in, for the steps 3 to 5 (R171). -/
def captureReg (k : BitVec 3) : Option RegName :=
  match k.toNat with
  | 3 => some .c1Vtor
  | 4 => some .c1Sp
  | 5 => some .c1Pc
  | _ => none

/-- Keep the received word for core 1 at steps 3 to 5 (R171). -/
def State.capture (s : State) (w : Word) : State :=
  match captureReg s.pbl.k with
  | some r => s.writeReg r w
  | none => s

/-- Phase `PB_RECV` (R171, R174): held while direction 0 is empty. -/
def pblRecv (s : State) : Result :=
  if s.full.get .p0 then
    s.readReg .slot0 fun w =>
      if (expectedWord s.pbl.k).isSome && expectedWord s.pbl.k != some w then .fault (.handshakeDeviation s.pbl.k w)
      else .next { (s.pop .p0 w).capture w with pbl := { s.pbl with w := w, phase := .ack } }
  else hold s

/-- Phase `PB_ACK` (R172): held while direction 1 is full. -/
def pblAck (s : State) : Result :=
  if s.full.get .p1 then hold s
  else .next { s.push .p1 (ackFor s.cfg s.pbl.k s.pbl.w) with pbl := { s.pbl with phase := .ackWake } }

/-- Phase `PB_ACKWAKE` (R173). -/
def pblAckWake (s : State) : Result :=
  .next { s.wake .pbl with
    pbl := { s.pbl with k := s.pbl.k + 1#3, phase := if s.pbl.k + 1#3 = 6#3 then .launch else .recv } }

/-- Phase `PB_LAUNCH` (R176): core 1 starts at the entry word, with the program that entry names. -/
def pblLaunch (s : State) : Result :=
  s.readReg .c1Vtor fun vt =>
    if vt ≠ s.cfg.vtBase then .fault (.vtorMismatch vt)
    else s.readReg .c1Sp fun sp => s.readReg .c1Pc fun e =>
      .next { s with
        c1Running := true
        pc := s.pc.set .p1 e
        pbl := { s.pbl with phase := .recv }
        streams := s.streams.set .p1 ⟨progFor s.cfg e, []⟩
        hist := s.hist ++ [.launch vt sp e] }

/-- `PBL_STEP` (R170): while the block is ready, core 1 not launched, and the responder drives port 1. -/
def pblStep (s : State) : Result :=
  if s.ready && !s.c1Running && s.cfg.peer == .pbl then
    match s.pbl.phase with
    | .recv => pblRecv s
    | .ack => pblAck s
    | .ackWake => pblAckWake s
    | .launch => pblLaunch s
  else hold s

end Sys2Proof.Machine
end

