-- ==== Sys2Proof/Machine/Sequencer.lean ====
section
/-! DEFINITION. The boot sequencer's own steps, one per phase. Spec: 41_boot_sequencer.md R150 to R159. -/

namespace Sys2Proof.Machine

/-- The command word of step `k` and what is done with it (R150). Steps 3 to 5 read `x[2]`, `x[3]`, `x[4]`, which
raise `UnwrittenRegister` when unwritten (R22). R150 gives no word for `k` above 5, which no busy state of a run
reaches: the step is then not enabled (log entry 16). -/
def withCommand (s : State) (cont : Word → Result) : Result :=
  match s.bsq.k.toNat with
  | 0 => cont cmdProbe
  | 1 => cont cmdProbe
  | 2 => cont cmdStart
  | 3 => s.readReg .bsqVtor cont
  | 4 => s.readReg .bsqSp cont
  | 5 => s.readReg .bsqEntry cont
  | _ => hold s

/-- `state(k)` (R151); `k` is at most 6 wherever it is used. -/
def stateOfStep (k : BitVec 3) : BsqState :=
  match k.toNat with
  | 0 => .draining
  | 1 => .draining
  | 2 => .startSent
  | 3 => .vtableSent
  | 4 => .stackSent
  | 5 => .entrySent
  | _ => .peerRunning

/-- The phase a step starts in, and the phase field in `PEER_RUNNING` (R152, R157). -/
def firstPhase (k : BitVec 3) : BsqPhase :=
  if k ≤ 1#3 then .drain else if k ≤ 5#3 then .send else .drain

/-- `BSQ.PHASE <- ph`. -/
def State.bsqPhase (s : State) (ph : BsqPhase) : State := { s with bsq := { s.bsq with phase := ph } }

/-- Phase `PH_DRAIN` (R153). -/
def bsqDrain (s : State) : Result :=
  if s.full.get .p1 then s.readReg .slot1 fun v => .next (s.pop .p1 v) else .next (s.bsqPhase .wake)

/-- Phase `PH_WAKE` (R154). -/
def bsqWake (s : State) : Result := .next ((s.wake .bsq).bsqPhase .send)

/-- Phase `PH_SEND` (R155): held while the outbound slot is full. -/
def bsqSend (s : State) : Result :=
  if s.full.get .p0 then hold s
  else withCommand s fun w => .next ((s.push .p0 w).bsqPhase .sendWake)

/-- Phase `PH_SENDWAKE` (R156). -/
def bsqSendWake (s : State) : Result := .next ((s.wake .bsq).bsqPhase .recv)

/-- The sequencer's registers after a matching acknowledgement (R157). -/
def advancedSequencer (b : Bsq) : Bsq :=
  { b with k := b.k + 1#3, state := stateOfStep (b.k + 1#3), phase := firstPhase (b.k + 1#3) }

/-- The sequencer's registers after a mismatch (R158): same step, same state. -/
def resendingSequencer (b : Bsq) : Bsq :=
  { b with desync := true, resends := b.resends + 1#32, phase := if b.k ≤ 1#3 then .drain else .send }

/-- Phase `PH_RECV` (R157, R158): held while the inbound slot is empty. -/
def bsqRecv (s : State) : Result :=
  if s.full.get .p1 then
    s.readReg .slot1 fun a => withCommand s fun w =>
      if a = ackFor s.cfg s.bsq.k w then .next { s.pop .p1 a with bsq := advancedSequencer s.bsq }
      else .next ({ s.pop .p1 a with bsq := resendingSequencer s.bsq }.log (.resend s.bsq.k))
  else hold s

/-- `BSQ_STEP` (R152): the rule of the current phase, while the block is ready and the sequencer busy. -/
def bsqStep (s : State) : Result :=
  if s.ready && s.bsq.state.busy then
    match s.bsq.phase with
    | .drain => bsqDrain s
    | .wake => bsqWake s
    | .send => bsqSend s
    | .sendWake => bsqSendWake s
    | .recv => bsqRecv s
  else hold s

end Sys2Proof.Machine
end

