-- ==== Sys2Proof/Machine/Flags.lean ====
section
/-! DEFINITION. The status flags and the words the status registers show: `CPUID`, `ST`, `BSQ_ST`, `C1_ST`.
Spec: 10_state.md R26, R31, R32, R39, R43; 40_mailbox_ops.md R121, R122; 41_boot_sequencer.md R148, R161. -/

namespace Sys2Proof.Machine

/-- `CPUID` on port `p`: `zext_32(p)` (R31, R121). -/
def cpuidWord : Port → Word
  | .p0 => 0#32
  | .p1 => 1#32

/-- `RX_EMPTY(p)`: the inbound slot is empty (R26). -/
def rxEmpty (s : State) (p : Port) : Bool := !s.full.get p.other

/-- `RX_FULL(p)` (R26). -/
def rxFull (s : State) (p : Port) : Bool := s.full.get p.other

/-- `TX_EMPTY(p)`: the outbound slot is empty (R26). -/
def txEmpty (s : State) (p : Port) : Bool := !s.full.get p

/-- `TX_FULL(p)` (R26). -/
def txFull (s : State) (p : Port) : Bool := s.full.get p

/-- `ST` on port `p`: bit 4 `EVT`, bit 3 `TX_FULL`, bit 2 `TX_EMPTY`, bit 1 `RX_FULL`, bit 0 `RX_EMPTY` (R32, R122). -/
def statusWord (s : State) (p : Port) : Word :=
  (0#27 : BitVec 27) ++ BitVec.ofBool (s.evt.get p) ++ BitVec.ofBool (txFull s p) ++ BitVec.ofBool (txEmpty s p)
    ++ BitVec.ofBool (rxFull s p) ++ BitVec.ofBool (rxEmpty s p)

/-- The code of `BSQ.STATE` (R39). -/
def BsqState.code : BsqState → BitVec 3
  | .idle => 0#3
  | .draining => 1#3
  | .startSent => 2#3
  | .vtableSent => 3#3
  | .stackSent => 4#3
  | .entrySent => 5#3
  | .peerRunning => 6#3

/-- The code of `BSQ.PHASE` (R39). -/
def BsqPhase.code : BsqPhase → BitVec 3
  | .drain => 0#3
  | .wake => 1#3
  | .send => 2#3
  | .sendWake => 3#3
  | .recv => 4#3

/-- The code of `PBL.PHASE` (R43). -/
def PblPhase.code : PblPhase → BitVec 2
  | .recv => 0#2
  | .ack => 1#2
  | .ackWake => 2#2
  | .launch => 3#2

/-- `BSQ_ST` (R39, R148): `STATE` 2:0, `BUSY` 3, `DESYNC` 4, `STEP` 10:8, `PHASE` 14:12, all others 0. -/
def bsqStatusWord (b : Bsq) : Word :=
  (0#17 : BitVec 17) ++ b.phase.code ++ (0#1 : BitVec 1) ++ b.k ++ (0#3 : BitVec 3) ++ BitVec.ofBool b.desync
    ++ BitVec.ofBool b.state.busy ++ b.state.code

/-- `C1_ST` (R43, R161): `RUNNING` 0, `PBL_K` 10:8, `PBL_PHASE` 13:12, all others 0. -/
def c1StatusWord (s : State) : Word :=
  (0#18 : BitVec 18) ++ s.pbl.phase.code ++ (0#1 : BitVec 1) ++ s.pbl.k ++ (0#7 : BitVec 7)
    ++ BitVec.ofBool s.c1Running

end Sys2Proof.Machine
end

