-- ==== Sys2Proof/Machine/BootRegs.lean ====
section
/-! DEFINITION. The transactions of the sequencer's registers and of core 1's status registers.
Spec: 41_boot_sequencer.md R141 to R149, R161 to R164. -/

namespace Sys2Proof.Machine

/-- A read of a sequencer word register (R141, R143, R145). -/
def readSeqReg (i : Instr) (r : RegName) (s : State) : Result := checked i s (s.readReg r fun v => answer v s)

/-- A write of a sequencer word register: only while `IDLE` (R142, R144, R146). -/
def writeSeqReg (i : Instr) (r : RegName) (d : Word) (s : State) : Result :=
  checked i s (if s.bsq.state ≠ .idle then .fault (.seqRegLocked r) else finish (s.writeReg r d))

/-- A read of a register installed for core 1 at launch (R162, R163, R164); before launch it is the fault
`UnwrittenRegister`, whatever the responder has captured (R44, R252). -/
def readLaunchReg (i : Instr) (r : RegName) (s : State) : Result :=
  checked i s (if s.c1Running then s.readReg r fun v => answer v s else .fault (.unwrittenRegister r))

/-- `RD.BSQ_VTOR` (R141). -/
def execRdBsqVtor (s : State) : Result := readSeqReg .rdBsqVtor .bsqVtor s

/-- `WR.BSQ_VTOR` (R142). -/
def execWrBsqVtor (d : Word) (s : State) : Result := writeSeqReg (.wrBsqVtor d) .bsqVtor d s

/-- `RD.BSQ_SP` (R143). -/
def execRdBsqSp (s : State) : Result := readSeqReg .rdBsqSp .bsqSp s

/-- `WR.BSQ_SP` (R144). -/
def execWrBsqSp (d : Word) (s : State) : Result := writeSeqReg (.wrBsqSp d) .bsqSp d s

/-- `RD.BSQ_ENTRY` (R145). -/
def execRdBsqEntry (s : State) : Result := readSeqReg .rdBsqEntry .bsqEntry s

/-- `WR.BSQ_ENTRY` (R146). -/
def execWrBsqEntry (d : Word) (s : State) : Result := writeSeqReg (.wrBsqEntry d) .bsqEntry d s

/-- The sequencer's registers right after `GO`: `DESYNC` and `RESENDS` are not touched (R147). -/
def startedSequencer (b : Bsq) : Bsq := { b with state := .draining, k := 0#3, phase := .drain }

/-- `WR.BSQ_CTRL` (R147): `GO` starts the sequencer; without it nothing happens. -/
def execWrBsqCtrl (go : Bool) (s : State) : Result :=
  checked (.wrBsqCtrl go) s
    (if !go then finish s
     else if s.bsq.state ≠ .idle then .fault (.seqReinvoke s.bsq.state)
     else s.readReg .bsqVtor fun vt => s.readReg .bsqSp fun _ => s.readReg .bsqEntry fun _ =>
       if vt ≠ s.cfg.vtBase then .fault (.vtorMismatch vt)
       else finish { s with bsq := startedSequencer s.bsq })

/-- `RD.BSQ_ST` (R148). -/
def execRdBsqSt (s : State) : Result := checked .rdBsqSt s (answer (bsqStatusWord s.bsq) s)

/-- `RD.BSQ_RESENDS` (R149). -/
def execRdBsqResends (s : State) : Result := checked .rdBsqResends s (answer s.bsq.resends s)

/-- `RD.C1_ST` (R161). -/
def execRdC1St (s : State) : Result := checked .rdC1St s (answer (c1StatusWord s) s)

/-- `RD.C1_VTOR` (R162). -/
def execRdC1Vtor (s : State) : Result := readLaunchReg .rdC1Vtor .c1Vtor s

/-- `RD.C1_SP` (R163). -/
def execRdC1Sp (s : State) : Result := readLaunchReg .rdC1Sp .c1Sp s

/-- `RD.C1_PC` (R164). -/
def execRdC1Pc (s : State) : Result := readLaunchReg .rdC1Pc .c1Pc s

end Sys2Proof.Machine
end

