-- ==== Sys2Proof/Machine/Operands.lean ====
section
/-! DEFINITION. Operand forms: the operands of a transaction (30_encoding.md R92), and the operands, conditions and
control forms of scripts (R101). -/

namespace Sys2Proof.Machine

/-- The word bound to a name, if any line has bound it (R101). -/
def boundWord (names : List (Name × Word)) (n : Name) : Option Word := lookupKey names n

/-- Bind a name: the new word replaces an older one. -/
def bindName (n : Name) (v : Word) (names : List (Name × Word)) : List (Name × Word) :=
  (n, v) :: names.filter (fun e => decide (e.1 ≠ n))

/-- Bind the word a transaction returned, where the line names it and the transaction returned one (R101). -/
def bindReturned (dst : Option Name) (rdata : Option Word) (names : List (Name × Word)) : List (Name × Word) :=
  match dst, rdata with
  | some n, some v => bindName n v names
  | _, _ => names

/-- The slice `v[hi:lo]` as a word (R7). DESIGN CHOICE (log entry 35): R7 gives a slice no meaning when `hi < lo` or
`hi > 31`; it has no value here, and a script that uses it is refused. -/
def sliceWord (v : Word) (hi lo : Nat) : Option Word :=
  if lo ≤ hi ∧ hi < 32 then some ((v.extractLsb' lo (hi + 1 - lo)).setWidth 32) else none

/-- `f` of two values, when both are there: a part without a value leaves the whole without one (log entry 13). -/
def bothValues {α β : Type} (f : α → α → β) : Option α → Option α → Option β
  | some v, some w => some (f v w)
  | _, _ => none

/-- The value of a script operand, by the operators of R7; `none` when it uses an unbound name or a slice of bits that
no word has. -/
def evalOperand (names : List (Name × Word)) : Operand → Option Word
  | .lit w => some w
  | .bound n => boundWord names n
  | .slice a hi lo => (evalOperand names a).bind (sliceWord · hi lo)
  | .not a => (evalOperand names a).map (~~~ ·)
  | .and a b => bothValues (· &&& ·) (evalOperand names a) (evalOperand names b)
  | .or a b => bothValues (· ||| ·) (evalOperand names a) (evalOperand names b)
  | .xor a b => bothValues (· ^^^ ·) (evalOperand names a) (evalOperand names b)
  | .add a b => bothValues (· + ·) (evalOperand names a) (evalOperand names b)
  | .shl a k => (evalOperand names a).map fun v : Word => v <<< k

/-- The value of a script condition (R101); `none` when a part of it has none. -/
def evalCond (c : Config) (names : List (Name × Word)) : Cond → Option Bool
  | .eq a b => bothValues (· == ·) (evalOperand names a) (evalOperand names b)
  | .ne a b => bothValues (· != ·) (evalOperand names a) (evalOperand names b)
  | .isAck n k cmd => bothValues (fun a w => a == ackFor c k w) (boundWord names n) (evalOperand names cmd)
  | .not a => (evalCond c names a).map (! ·)
  | .and a b => bothValues (· && ·) (evalCond c names a) (evalCond c names b)
  | .or a b => bothValues (· || ·) (evalCond c names a) (evalCond c names b)

/-- One control form of a script unfolded (R101): the position reached without any step of the block. `none` when a
condition has no value, or when the script does not stand at a control form. -/
def unfoldScript (c : Config) (names : List (Name × Word)) : Script → Option Script
  | .done => none
  | .line _ _ => none
  | .loop body stop rest => some (seqScript body (.untilTest body stop rest))
  | .untilTest body stop rest => (evalCond c names stop).map fun b => if b then rest else .loop body stop rest
  | .forever body => some (seqScript body (.forever body))
  | .repeatN 0 _ rest => some rest
  | .repeatN (n + 1) body rest => some (seqScript body (.repeatN n body rest))
  | .ifThen cond body rest => (evalCond c names cond).map fun b => if b then seqScript body rest else rest

end Sys2Proof.Machine
end

