-- ==== Sys2Proof/Machine/Mailbox.lean ====
section
/-! DEFINITION. The six transactions of the mailbox channel and the second half of a held wait.
Spec: 40_mailbox_ops.md R121 to R127. -/

namespace Sys2Proof.Machine

/-- `RD.CPUID` (R121). -/
def execRdCpuid (s : State) : Result := checked .rdCpuid s (answer (cpuidWord s.port) s)

/-- `RD.ST` (R122): no side effect. -/
def execRdSt (s : State) : Result := checked .rdSt s (answer (statusWord s s.port) s)

/-- `WR.TX` (R123): push into the outbound direction, which must be empty. -/
def execWrTx (d : Word) (s : State) : Result :=
  checked (.wrTx d) s
    (if s.full.get s.port then .fault (.channelCorrupt s.port .writeWhileFull) else finish (s.push s.port d))

/-- `RD.RX` (R124): pop the inbound direction, which must be full. -/
def execRdRx (s : State) : Result :=
  checked .rdRx s
    (if s.full.get s.port.other then s.readReg (slotOf s.port.other) fun v => answer v (s.pop s.port.other v)
     else .fault (.channelCorrupt s.port.other .readWhileEmpty))

/-- `WR.WAKE` (R125): the broadcast; `d` is ignored. -/
def execWrWake (d : Word) (s : State) : Result :=
  checked (.wrWake d) s (finish (s.wake (.core s.port)))

/-- `WR.WAIT` (R126): consume a latched event, or park; `d` is ignored. A parked wait completes at `WAIT_RESUME`. -/
def execWrWait (d : Word) (s : State) : Result :=
  checked (.wrWait d) s
    (if (s.active.get s.port).isSome then .fault (.waitInHandler s.port)
     else if s.evt.get s.port then finish { s with evt := s.evt.set s.port false }
     else finish { s with parked := s.parked.set s.port true })

/-- `WAIT_RESUME p` is enabled (R127). -/
def waitResumeEnabled (s : State) (p : Port) : Bool := s.parked.get p && s.evt.get p

/-- `WAIT_RESUME p` (R127). -/
def waitResume (p : Port) (s : State) : Result :=
  if waitResumeEnabled s p then
    .next { s with evt := s.evt.set p false, parked := s.parked.set p false }
  else hold s

end Sys2Proof.Machine
end

