-- ==== Sys2Proof/Machine/Table.lean ====
section
/-! DEFINITION. The transactions of the vector table window and of the interrupt line registers.
Spec: 42_dispatch_table.md R190, R194 to R200. -/

namespace Sys2Proof.Machine

/-- `EN[p] <- v` for the issuing port (R41, R195). -/
def State.writeEnable (s : State) (v : Word) : State := { s with en := s.en.set s.port v }

/-- `RD.VDT` (R190): an index at or above `NVEC` is refused by the common checks. -/
def execRdVdt (idx : Nat) (s : State) : Result := checked (.rdVdt idx) s (answer (vdt s.cfg idx) s)

/-- `RD.IRQ_EN` (R194). -/
def execRdIrqEn (s : State) : Result := checked .rdIrqEn s (answer (s.en.get s.port) s)

/-- `WR.IRQ_EN` (R195). -/
def execWrIrqEn (d : Word) (s : State) : Result :=
  checked (.wrIrqEn d) s (finish (s.writeEnable (d &&& maskIrq s.cfg)))

/-- `WR.IRQ_EN_SET` (R196). -/
def execWrIrqEnSet (d : Word) (s : State) : Result :=
  checked (.wrIrqEnSet d) s (finish (s.writeEnable ((s.en.get s.port ||| d) &&& maskIrq s.cfg)))

/-- `WR.IRQ_EN_CLR` (R197). -/
def execWrIrqEnClr (d : Word) (s : State) : Result :=
  checked (.wrIrqEnClr d) s (finish (s.writeEnable (s.en.get s.port &&& ~~~d)))

/-- `WR.IRQ_EN_XOR` (R198). -/
def execWrIrqEnXor (d : Word) (s : State) : Result :=
  checked (.wrIrqEnXor d) s (finish (s.writeEnable ((s.en.get s.port ^^^ d) &&& maskIrq s.cfg)))

/-- `RD.IRQ_ST` (R199): reading clears nothing. -/
def execRdIrqSt (s : State) : Result := checked .rdIrqSt s (answer s.cond s)

/-- `WR.IRQ_ST` (R200): clear every condition whose bit is written 1. -/
def execWrIrqSt (d : Word) (s : State) : Result :=
  checked (.wrIrqSt d) s (finish { s with cond := s.cond &&& ~~~d })

end Sys2Proof.Machine
end

