-- ==== Sys2Proof/Machine/Dispatch.lean ====
section
/-! DEFINITION. One arm per transaction: the meaning of each. -/

namespace Sys2Proof.Machine

def exec (i : Instr) (s : State) : Host.Outcome State Fault Refusal :=
  match i with
  | .rdCpuid => Sys2Proof.Machine.execRdCpuid s
  | .rdSt => Sys2Proof.Machine.execRdSt s
  | .wrTx d => Sys2Proof.Machine.execWrTx d s
  | .rdRx => Sys2Proof.Machine.execRdRx s
  | .wrWake d => Sys2Proof.Machine.execWrWake d s
  | .wrWait d => Sys2Proof.Machine.execWrWait d s
  | .rdBsqVtor => Sys2Proof.Machine.execRdBsqVtor s
  | .wrBsqVtor d => Sys2Proof.Machine.execWrBsqVtor d s
  | .rdBsqSp => Sys2Proof.Machine.execRdBsqSp s
  | .wrBsqSp d => Sys2Proof.Machine.execWrBsqSp d s
  | .rdBsqEntry => Sys2Proof.Machine.execRdBsqEntry s
  | .wrBsqEntry d => Sys2Proof.Machine.execWrBsqEntry d s
  | .wrBsqCtrl go => Sys2Proof.Machine.execWrBsqCtrl go s
  | .rdBsqSt => Sys2Proof.Machine.execRdBsqSt s
  | .rdBsqResends => Sys2Proof.Machine.execRdBsqResends s
  | .rdIrqEn => Sys2Proof.Machine.execRdIrqEn s
  | .wrIrqEn d => Sys2Proof.Machine.execWrIrqEn d s
  | .wrIrqEnSet d => Sys2Proof.Machine.execWrIrqEnSet d s
  | .wrIrqEnClr d => Sys2Proof.Machine.execWrIrqEnClr d s
  | .wrIrqEnXor d => Sys2Proof.Machine.execWrIrqEnXor d s
  | .rdIrqSt => Sys2Proof.Machine.execRdIrqSt s
  | .wrIrqSt d => Sys2Proof.Machine.execWrIrqSt d s
  | .rdC1St => Sys2Proof.Machine.execRdC1St s
  | .rdC1Vtor => Sys2Proof.Machine.execRdC1Vtor s
  | .rdC1Sp => Sys2Proof.Machine.execRdC1Sp s
  | .rdC1Pc => Sys2Proof.Machine.execRdC1Pc s
  | .rdVdt idx => Sys2Proof.Machine.execRdVdt idx s

end Sys2Proof.Machine
end

