-- ==== Sys2Proof/Machine/Interrupts.lean ====
section
/-! DEFINITION. Interrupt sources, dispatch, core exceptions, handler return and the trap loop; reset and readiness.
Spec: 60_exceptions.md R260 to R271; 70_reset_and_hazards.md R300, R303. -/

namespace Sys2Proof.Machine

/-- `EDGE n` (R260): latch the condition of line `n`. A line at or above `NIRQ` does not exist. -/
def edge (n : Nat) (s : State) : Result :=
  if s.ready && decide (n < nirq s.cfg) then
    .next { s with cond := s.cond ||| (1#32 <<< n), hist := s.hist ++ [.edge n] }
  else hold s

/-- `DISPATCH c` (R262): the lowest pending enabled line of core `c` is taken. -/
def dispatch (c : Port) (s : State) : Result :=
  if dispatchEnabled s c then
    match lowbit (pendingLines s c) with
    | some n => enterHandler c (s.cfg.ncorex + n) s
    | none => hold s
  else hold s

/-- `EXC c e` (R266), a line of core `c`'s script: `rest` is what follows it. Held while the block is not ready. -/
def exception (c : Port) (e : Nat) (rest : Script) (s : State) : Result :=
  if !(decide (1 ≤ e) && decide (e < s.cfg.ncorex)) then .refused (.exceptionIndex c e)
  else if !(s.ready && coreRuns s c) then hold s
  else if (s.active.get c).isSome then .fault (.nestedException c e)
  else enterHandler c e { s with streams := s.streams.set c ⟨rest, (s.streams.get c).names⟩ }

/-- `HRET c` is enabled (R267): a handler is active, its script has ended, and it is no trap loop. -/
def hretEnabled (s : State) (c : Port) : Bool :=
  (s.active.get c).isSome && decide ((s.streams.get c).script = .done) && !inTrapLoop s c

/-- `HRET c` (R267). -/
def hret (c : Port) (s : State) : Result := if hretEnabled s c then .next (leaveHandler c s) else hold s

/-- `TRAP c` (R269): in a trap loop the step is always enabled and changes nothing; elsewhere there is none. -/
def trap (c : Port) (s : State) : Result := if inTrapLoop s c then .next s else hold s

/-- `REPORT c v` (R228): only recorded. -/
def State.report (s : State) (c : Port) (v : Word) : State := s.log (.report c v)

/-- The state after `RESET` (R300): every element of R20 at its reset value, both scripts at their first line, the
parameters unchanged. It is the start of a new run, so the old run's refusal mark (R11 (d)) is gone with its faults.
`pc[0]` is not set by the block (R20, R23); the interleaving goes on (log entry 15). -/
def resetState (s : State) : State :=
  { State.initial s.cfg with schedule := s.schedule, pc := ⟨s.pc.c0, 0#32⟩, fresh := s.fresh }

/-- `READY_UP` (R303). -/
def readyUp (s : State) : Result := if s.ready then hold s else .next { s with ready := true }

end Sys2Proof.Machine
end

