-- ==== Sys2Proof/Machine/Streams.lean ====
section
/-! DEFINITION. How a core's stream moves: which stream may step, what its next line does, and the simulated peer.
Spec: 00_scope.md R13; 30_encoding.md R91, R101; 40_mailbox_ops.md R120; 41_boot_sequencer.md R177;
60_exceptions.md R264, R265. -/

namespace Sys2Proof.Machine

/-- The stream of core `c` may step: the core runs, and either a handler is active (its stream is then the current
one, parked or not, R265) or the background stream is neither parked (R120) nor pre-empted (R264). -/
def streamMayStep (s : State) (c : Port) : Bool :=
  coreRuns s c && ((s.active.get c).isSome || (!s.parked.get c && !dispatchEnabled s c))

/-- The stream of core `c` goes on with `rest` and the names `names`. -/
def State.advance (s : State) (c : Port) (rest : Script) (names : List (Name × Word)) : State :=
  { s with streams := s.streams.set c ⟨rest, names⟩ }

/-- After a transaction of core `c`: the word it returned is bound, and the stream stands at `rest` (R91, R101). A
parked `WR.WAIT` also stands there: `PARKED[c]` is what holds it (log entry 12). -/
def afterTransaction (c : Port) (dst : Option Name) (rest : Script) (names : List (Name × Word)) : Result → Result
  | .next t => .next (t.advance c rest (bindReturned dst t.rdata names))
  | .fault f => .fault f
  | .refused r => .refused r

/-- The transaction word `T` on port `c` (R90, R91): decoded, and executed on that port. -/
def issueWord (c : Port) (T : TWord) (s : State) : Result :=
  match decode T with
  | .error _ => .refused (.reservedEncoding T)
  | .ok i => exec i { s with port := c }

/-- One line of core `c`'s stream, standing before `rest` (R101, R228, R266). -/
def lineStep (c : Port) (l : Line) (rest : Script) (s : State) : Result :=
  match l with
  | .access opcode d dst =>
    match evalOperand (s.streams.get c).names d with
    | none => .refused (.undefinedOperand c)
    | some v => afterTransaction c dst rest (s.streams.get c).names (issueWord c (wordOf opcode v) s)
  | .exc e => exception c e rest s
  | .report d =>
    match evalOperand (s.streams.get c).names d with
    | none => .refused (.undefinedOperand c)
    | some v => .next ((s.report c v).advance c rest (s.streams.get c).names)

/-- The next step of core `c`'s own stream (R13). A control form takes one step of the core, which changes nothing
else (log entry 10); a stream that has ended makes none. -/
def coreStep (c : Port) (s : State) : Result :=
  if streamMayStep s c then
    match (s.streams.get c).script with
    | .done => hold s
    | .line l rest => lineStep c l rest s
    | script =>
      match unfoldScript s.cfg (s.streams.get c).names script with
      | some next => .next (s.advance c next (s.streams.get c).names)
      | none => .refused (.undefinedOperand c)
  else hold s

/-- The transaction of an `ENV` peer's operation (R177). -/
def EnvOp.instr : EnvOp → Instr
  | .rdCpuid => .rdCpuid
  | .rdSt => .rdSt
  | .wrTx d => .wrTx d
  | .rdRx => .rdRx
  | .wrWake d => .wrWake d

/-- A transaction of the simulated peer on port 1 (R177): only before launch, and only when `PEER == ENV`. -/
def envStep (op : EnvOp) (s : State) : Result :=
  if !s.c1Running && s.cfg.peer == .env then exec op.instr { s with port := .p1 } else hold s

end Sys2Proof.Machine
end

