-- ==== Sys2Proof/Machine/Step.lean ====
section
/-! DEFINITION. One step of the machine: the next event of the interleaving. Spec: 00_scope.md R11, R13, R14. -/

namespace Sys2Proof.Machine

/-- One event: the step of the agent it names (R13, R100). -/
def runEvent (e : Event) (s : State) : Result :=
  match e with
  | .reset => .next (resetState s)
  | .readyUp => readyUp s
  | .edge n => edge n s
  | .dispatch c => dispatch c s
  | .hret c => hret c s
  | .trap c => trap c s
  | .waitResume c => waitResume c s
  | .bsqStep => bsqStep s
  | .pblStep => pblStep s
  | .env op => envStep op s
  | .core c => coreStep c s

/-- One step of the machine: it takes the next event off the interleaving and runs it. A launch whose configuration
is not well formed is refused (R192); with nothing scheduled, no agent moves. -/
def step (s : State) : Host.Outcome State Fault Refusal :=
  match configProblem s.cfg with
  | some why => .refused (.badConfiguration why)
  | none =>
    match s.schedule with
    | [] => .next s
    | e :: later => runEvent e { s with schedule := later }

/-- The current stream of core 0 with the word `w` as its next line, core 0 as the next agent, and what such a line
needs to be executed: the block ready (R303, R304), and core 0's background stream neither parked nor
pre-empted (R120, R264). Log entry 18. -/
def State.withFetchWord (s : State) (nbits w : Nat) : State :=
  { s with
    ready := true
    parked := s.parked.set .p0 (s.parked.c0 && s.active.c0.isSome)
    en := s.en.set .p0 (if s.active.c0.isSome then s.en.c0 else s.en.c0 &&& ~~~s.cond)
    schedule := .core .p0 :: s.schedule
    streams := s.streams.set .p0
      ⟨.line (.access (BitVec.ofNat 8 (w % 2 ^ nbits / 2 ^ 32)) (.lit (BitVec.ofNat 32 (w % 2 ^ nbits))) none)
        s.streams.c0.script, s.streams.c0.names⟩ }

end Sys2Proof.Machine
end

