-- ==== Sys2Proof/Safety.lean ====
section
/-! DEFINITION. The terms claims are stated in: the premises of 10_state.md R51, the invariants of R49 and of the
mailbox history, runs with the spec's treatment of a fault and of a refusal (00_scope.md R11), and the end of a
run (70_reset_and_hazards.md R322). -/

namespace Sys2Proof.Machine

/-- `CleanReset` (R51): exactly the `RESET` state (R300) with `READY == 1`. What `RESET` leaves as it is (the
configuration, `pc[0]`, the interleaving, the counter of free values: log entry 15) is that of `s`. -/
abbrev CleanReset (s : State) : Prop := s = { resetState s with ready := true }

/-- `CleanMailbox` (R51). -/
abbrev CleanMailbox (s : State) : Prop := s.full = ⟨false, false⟩

/-- `SeqIdle` (R51). -/
abbrev SeqIdle (s : State) : Prop :=
  s.bsq = { state := .idle, k := 0#3, phase := .drain, desync := false, resends := 0#32 }

/-- `PeerHalted` (R51). -/
abbrev PeerHalted (s : State) : Prop := s.c1Running = false ∧ s.pbl.k = 0#3 ∧ s.pbl.phase = .recv

/-- `NoFault` (R51). -/
abbrev NoFault (s : State) : Prop := s.faults = []

/-- `IrqQuiet` (R51). -/
abbrev IrqQuiet (s : State) : Prop :=
  s.cond = 0#32 ∧ s.en = ⟨0#32, 0#32⟩ ∧ s.active = ⟨none, none⟩

/-- The sequencer's registers agree (R49 (a), R151, R152): `IDLE` at step 0, `PEER_RUNNING` exactly at step 6, and
while busy the state is the one of the step, with the drain and wake phases at the probe steps only. -/
abbrev SequencerConsistent (b : Bsq) : Prop :=
  match b.state with
  | .idle => b.k = 0#3 ∧ b.phase = .drain
  | .peerRunning => b.k = 6#3 ∧ b.phase = .drain
  | st => b.k ≤ 5#3 ∧ st = stateOfStep b.k ∧ (b.phase = .drain ∨ b.phase = .wake → b.k ≤ 1#3)

/-- Once the sequencer is started, its three words are written and the table word is `VT_BASE` (R147, R142). -/
abbrev BootWordsReady (s : State) : Prop :=
  s.bsq.state ≠ .idle →
    s.x.bsqVtor = ⟨s.cfg.vtBase, true⟩ ∧ s.x.bsqSp.written = true ∧ s.x.bsqEntry.written = true

/-- The responder has taken the word of step `n` (R171): it is past that step, or past its receiving phase. -/
abbrev hasReceived (p : Pbl) (n : BitVec 3) : Prop := n < p.k ∨ (p.k = n ∧ (p.phase = .ack ∨ p.phase = .ackWake))

/-- The responder's registers agree (R49 (f), R170 to R177). -/
abbrev ResponderConsistent (s : State) : Prop :=
  (s.c1Running = true → s.pbl.k = 6#3 ∧ s.pbl.phase = .recv ∧ s.x.c1Vtor.val = s.cfg.vtBase) ∧
  (s.c1Running = false → if s.pbl.phase = .launch then s.pbl.k = 6#3 else s.pbl.k ≤ 5#3) ∧
  (hasReceived s.pbl 3#3 → s.x.c1Vtor.written = true) ∧
  (hasReceived s.pbl 4#3 → s.x.c1Sp.written = true) ∧
  (hasReceived s.pbl 5#3 → s.x.c1Pc.written = true) ∧
  (s.cfg.peer = .env → s.c1Running = false ∧ s.pbl.k = 0#3 ∧ s.pbl.phase = .recv)

/-- Bits at and above `NIRQ` of the enables and the conditions are 0 (R49 (c)). -/
abbrev LinesMasked (s : State) : Prop :=
  s.en.c0 &&& ~~~maskIrq s.cfg = 0#32 ∧ s.en.c1 &&& ~~~maskIrq s.cfg = 0#32 ∧ s.cond &&& ~~~maskIrq s.cfg = 0#32

/-- Core 1 parks and runs a handler only once it is launched (R29, R49 (e)). -/
abbrev HaltedCoreQuiet (s : State) : Prop :=
  s.c1Running = false → s.active.c1 = none ∧ s.parked.c1 = false

/-- An active handler has a handler's index: `1..NVEC-1` (R193, R262, R266). -/
abbrev ActiveIndexLegal (s : State) : Prop :=
  ∀ c : Port, ∀ idx ∈ s.active.get c, 1 ≤ idx ∧ idx < s.cfg.nvec

/-- A full slot's register has been written (R22, R25). -/
abbrev FullSlotsWritten (s : State) : Prop :=
  ∀ d : Port, s.full.get d = true → (s.x.get (slotOf d)).written = true

/-- The invariants of a reachable state without a fault (R49), made inductive. -/
abbrev Inv (s : State) : Prop :=
  s.cfg.wf = true ∧ SequencerConsistent s.bsq ∧ BootWordsReady s ∧ ResponderConsistent s ∧ LinesMasked s ∧
    HaltedCoreQuiet s ∧ ActiveIndexLegal s ∧ FullSlotsWritten s

/-- The words pushed into direction `d`, oldest first (R36). -/
def pushesOf (d : Port) : List HistEntry → List Word
  | [] => []
  | .push e v :: r => if e = d then v :: pushesOf d r else pushesOf d r
  | _ :: r => pushesOf d r

/-- The words popped from direction `d`, oldest first (R36). -/
def popsOf (d : Port) : List HistEntry → List Word
  | [] => []
  | .pop e v :: r => if e = d then v :: popsOf d r else popsOf d r
  | _ :: r => popsOf d r

/-- The report trace of core `c` (R228). -/
def reportsOf (c : Port) : List HistEntry → List Word
  | [] => []
  | .report e v :: r => if e = c then v :: reportsOf c r else reportsOf c r
  | _ :: r => reportsOf c r

/-- The words in the slot of direction `d`: one while it is full, none while it is empty. -/
def inFlight (s : State) (d : Port) : List Word := if s.full.get d then [(s.x.get (slotOf d)).val] else []

/-- First in, first out (R71, R128): what was pushed is what was popped, in order, and then what is in the slot. -/
abbrev Fifo (s : State) : Prop := ∀ d : Port, pushesOf d s.hist = popsOf d s.hist ++ inFlight s d

/-- The command word of step `k` of a started sequencer (R150). -/
def commandWord (s : State) (k : BitVec 3) : Word :=
  match k.toNat with
  | 3 => s.x.bsqVtor.val
  | 4 => s.x.bsqSp.val
  | 5 => s.x.bsqEntry.val
  | 2 => cmdStart
  | _ => cmdProbe

/-- The responder waits for the word of step `k`: it stands at that step's receiving phase, or has only the wake of
the step before it to give. -/
abbrev responderAwaits (s : State) (k : BitVec 3) : Prop :=
  (s.pbl.phase = .recv ∧ s.pbl.k = k) ∨ (s.pbl.phase = .ackWake ∧ s.pbl.k + 1#3 = k)

/-- The responder has pushed the acknowledgement of step `k`, and stands anywhere up to its next hold. -/
abbrev responderAnswered (s : State) (k : BitVec 3) : Prop :=
  (s.pbl.phase = .ackWake ∧ s.pbl.k = k) ∨ (s.pbl.phase = .recv ∧ s.pbl.k = k + 1#3) ∨
    (s.pbl.phase = .launch ∧ s.pbl.k = k + 1#3)

/-- The words the responder has captured so far are those the sequencer sends (R171, R178). -/
abbrev CapturedAgree (s : State) : Prop :=
  (hasReceived s.pbl 3#3 → s.x.c1Vtor = s.x.bsqVtor) ∧ (hasReceived s.pbl 4#3 → s.x.c1Sp = s.x.bsqSp) ∧
    (hasReceived s.pbl 5#3 → s.x.c1Pc = s.x.bsqEntry)

/-- Where sequencer and responder stand relative to each other while the sequencer is busy (R152 to R157, R171 to
R173): before its send, both slots are empty and the responder awaits the step; after it, the word is in the slot,
or the responder holds it, or its acknowledgement is in the other slot. -/
abbrev HandshakePosition (s : State) : Prop :=
  (s.bsq.phase = .sendWake ∨ s.bsq.phase = .recv →
    (s.full = ⟨true, false⟩ ∧ s.x.slot0 = ⟨commandWord s s.bsq.k, true⟩ ∧ responderAwaits s s.bsq.k) ∨
    (s.full = ⟨false, false⟩ ∧ s.pbl.phase = .ack ∧ s.pbl.k = s.bsq.k ∧ s.pbl.w = commandWord s s.bsq.k) ∨
    (s.full = ⟨false, true⟩ ∧ s.x.slot1 = ⟨ackFor s.cfg s.bsq.k (commandWord s s.bsq.k), true⟩ ∧
      responderAnswered s s.bsq.k)) ∧
  (¬ (s.bsq.phase = .sendWake ∨ s.bsq.phase = .recv) → s.full = ⟨false, false⟩ ∧ responderAwaits s s.bsq.k)

/-- The handshake in progress or finished between the hardware sequencer and the reference responder, with no
mismatch so far (R178). -/
abbrev HandshakeInStep (s : State) : Prop :=
  Inv s ∧ s.cfg.peer = .pbl ∧ s.bsq.state ≠ .idle ∧ s.bsq.desync = false ∧ s.bsq.resends = 0#32 ∧ CapturedAgree s ∧
    (s.bsq.state.busy = true → HandshakePosition s) ∧
    (s.bsq.state = .peerRunning → s.c1Running = true ∨ responderAnswered s 5#3)

/-- `FAULTS` with a fault added (R252): a set, kept without repeats. -/
def addFault (f : Fault) (fs : List Fault) : List Fault := if f ∈ fs then fs else fs ++ [f]

/-- What a run can reach. A step that raises a fault adds it to `FAULTS` and leaves the rest of the state unspecified
(R11 (c), U14): every state with those faults and the same launch configuration may follow. A refused step sets the
mark and changes nothing else; the interleaving goes on (R11 (d)). DESIGN CHOICE (log entry 31): a fault neither sets
nor clears the mark, which R11 (d) keeps for the whole run while R11 (c) does not name it. -/
inductive Reaches : State → State → Prop where
  | refl (s : State) : Reaches s s
  | next {s t u : State} : Reaches s t → step t = .next u → Reaches s u
  | raised {s t u : State} {f : Fault} : Reaches s t → step t = .fault f → u.cfg = t.cfg →
      u.faults = addFault f t.faults → u.refusedMark = t.refusedMark → Reaches s u
  | refused {s t : State} {r : Refusal} : Reaches s t → step t = .refused r →
      Reaches s { t with schedule := t.schedule.tail, refusedMark := true }

/-- A run of steps that all answer a next state: the spec's runs without a fault or a refusal. -/
inductive Runs : State → State → Prop where
  | refl (s : State) : Runs s s
  | next {s t u : State} : Runs s t → step t = .next u → Runs s u

/-- The reads that change nothing (R121, R122, R141, R143, R145, R148, R149, R161 to R164, R190, R194, R199): every
read but `RD.RX`. A poll is made of these (R220). -/
def isQuietRead : Instr → Bool
  | .rdCpuid => true
  | .rdSt => true
  | .rdBsqVtor => true
  | .rdBsqSp => true
  | .rdBsqEntry => true
  | .rdBsqSt => true
  | .rdBsqResends => true
  | .rdIrqEn => true
  | .rdIrqSt => true
  | .rdC1St => true
  | .rdC1Vtor => true
  | .rdC1Sp => true
  | .rdC1Pc => true
  | .rdVdt _ => true
  | _ => false

/-- The word a transaction returns, when it completes and returns one (R95). -/
def returnedWord : Result → Option Word
  | .next t => t.rdata
  | _ => none

/-- The word a quiet read of core `c` returns in `s`; none for any other word, and for a read that stops. -/
def quietWord (s : State) (c : Port) (T : TWord) : Option Word :=
  match decode T with
  | .error _ => none
  | .ok i => if isQuietRead i then returnedWord (exec i { s with port := c }) else none

/-- What a stream comes to while only its own core moves and only by quiet reads. -/
inductive PollResult where
  /-- It gets through, with these names bound. -/
  | through (names : List (Name × Word))
  /-- It never gets on: it polls for ever, or stands at an exception held by `READY == 0`. -/
  | held
  /-- It reaches a line that is no quiet read: a step with an effect, or one that stops. -/
  | acts
deriving DecidableEq, Repr

/-- What comes after a stretch that gets through. -/
def PollResult.andThen : PollResult → (List (Name × Word) → PollResult) → PollResult
  | .through names, k => k names
  | .held, _ => .held
  | .acts, _ => .acts

/-- A loop: it gets through when its condition holds after the body. It polls for ever when the condition fails and the
next pass binds the names to the same words, so that every later pass is like it. -/
def pollLoop (body : List (Name × Word) → PollResult) (stop : List (Name × Word) → Option Bool)
    (rest : List (Name × Word) → PollResult) (names : List (Name × Word)) : PollResult :=
  (body names).andThen fun once =>
    match stop once with
    | none => .acts
    | some true => rest once
    | some false => (body once).andThen fun twice => if twice = once then .held else .acts

/-- `n` passes of a body. -/
def pollRepeat (body : List (Name × Word) → PollResult) : Nat → List (Name × Word) → PollResult
  | 0, names => .through names
  | n + 1, names => (body names).andThen (pollRepeat body n)

/-- Follow a script of core `c` as far as quiet reads go, in the state `s`, which they do not change (R220). -/
def pollRun (s : State) (c : Port) : Script → List (Name × Word) → PollResult
  | .done, names => .through names
  | .line (.access opcode d dst) rest, names =>
    match (evalOperand names d).bind fun v => quietWord s c (wordOf opcode v) with
    | none => .acts
    | some w => pollRun s c rest (bindReturned dst (some w) names)
  | .line (.exc e) _, _ => if decide (1 ≤ e) && decide (e < s.cfg.ncorex) && !s.ready then .held else .acts
  | .line (.report _) _, _ => .acts
  | .loop body stop rest, names =>
    pollLoop (pollRun s c body) (fun m => evalCond s.cfg m stop) (pollRun s c rest) names
  | .untilTest body stop rest, names =>
    match evalCond s.cfg names stop with
    | none => .acts
    | some true => pollRun s c rest names
    | some false => pollLoop (pollRun s c body) (fun m => evalCond s.cfg m stop) (pollRun s c rest) names
  | .forever body, names => pollLoop (pollRun s c body) (fun _ => some false) (fun _ => .acts) names
  | .repeatN n body rest, names => (pollRepeat (pollRun s c body) n names).andThen (pollRun s c rest)
  | .ifThen cond body rest, names =>
    match evalCond s.cfg names cond with
    | none => .acts
    | some true => (pollRun s c body names).andThen (pollRun s c rest)
    | some false => pollRun s c rest names

/-- Core `c` polls for ever, which R220 and R322 treat as held: its stream, a handler's or the background one, comes by
quiet reads alone to a loop whose condition stays false as long as no other agent moves. -/
def pollHeld (s : State) (c : Port) : Bool :=
  pollRun s c (s.streams.get c).script (s.streams.get c).names == .held

/-- A core has nothing it can do (R254, R255, R322): it is halted; or it has no event to resume on (R127) and is in a
trap loop, or in a handler that polls for ever, or, with no handler and no dispatch, is parked, at the end of its
script, or polling for ever. -/
def coreSettled (s : State) (c : Port) : Bool :=
  !coreRuns s c ||
    (!waitResumeEnabled s c &&
      (inTrapLoop s c ||
        (if (s.active.get c).isSome then pollHeld s c
         else !dispatchEnabled s c && (s.parked.get c || (s.streams.get c).script == .done || pollHeld s c))))

/-- A step of the environment (R13: the simulated peer, the peripherals, the clock and reset collaborator) that is
enabled in `s`. -/
def environmentEnabled (s : State) : Event → Bool
  | .reset => true
  | .readyUp => !s.ready
  | .edge n => s.ready && decide (n < nirq s.cfg)
  | .env _ => !s.c1Running && s.cfg.peer == .env
  | _ => false

/-- The environment is held or finished: the interleaving to come has no enabled step of it (log entry 33). -/
def environmentSettled (s : State) : Bool := s.schedule.all fun e => !environmentEnabled s e

/-- The sequencer is held or finished (R254). -/
def sequencerSettled (s : State) : Bool :=
  !(s.ready && s.bsq.state.busy) || (s.bsq.phase == .send && s.full.c0) || (s.bsq.phase == .recv && !s.full.c1)

/-- The responder is held or finished (R254). -/
def responderSettled (s : State) : Bool :=
  !(s.ready && !s.c1Running && s.cfg.peer == .pbl) || (s.pbl.phase == .recv && !s.full.c0) ||
    (s.pbl.phase == .ack && s.full.c1)

/-- Every agent of R13 is held or finished: no step of any agent can change the block. -/
def allSettled (s : State) : Bool :=
  coreSettled s .p0 && coreSettled s .p1 && sequencerSettled s && responderSettled s && environmentSettled s

/-- A script is finite (R322): no endless loop stands in it. A `loop ... until` is finite, whether or not its condition
comes to hold. -/
def isFiniteScript : Script → Bool
  | .done => true
  | .line _ rest => isFiniteScript rest
  | .loop body _ rest => isFiniteScript body && isFiniteScript rest
  | .untilTest body _ rest => isFiniteScript body && isFiniteScript rest
  | .forever _ => false
  | .repeatN _ body rest => isFiniteScript body && isFiniteScript rest
  | .ifThen _ body rest => isFiniteScript body && isFiniteScript rest

/-- What is left of a script keeps no run from its end: nothing is left, or it is no finite script. -/
def scriptOver (script : Script) : Bool := script == .done || !isFiniteScript script

/-- The background script of core `c`: saved while a handler is active (R263). -/
def backgroundScript (s : State) (c : Port) : Script :=
  if (s.active.get c).isSome then (s.resume.get c).stream.script else (s.streams.get c).script

/-- The finite scripts of core `c` have run out (R322): that of its handler, if one is active, and its background script,
a held `WR.WAIT` (R126) included. Not asked of a core that is halted, nor of one in a trap loop, whose script does not
finish (R322). -/
def scriptsRunOut (s : State) (c : Port) : Bool :=
  !coreRuns s c || inTrapLoop s c ||
    (scriptOver (s.streams.get c).script && scriptOver (backgroundScript s c) &&
      !(s.parked.get c && isFiniteScript (backgroundScript s c)))

/-- The end state of a test (R322): the finite scripts given to the cores have run out and every other agent is held or
finished, without a fault or a refusal. A finite script that is stuck at a wait or a poll has not run out, and a run in
that state has no end (U4, U5 of 93_implementation_defined.md). -/
def runEnded (s : State) : Bool :=
  scriptsRunOut s .p0 && scriptsRunOut s .p1 && allSettled s && s.faults.isEmpty && !s.refusedMark

end Sys2Proof.Machine
end

