-- ==== Sys2Proof/Certificates/Slice0/Obligations.lean ====
section
/-! DEFINITION. The statements for the provers. -/

open Sys2Proof Sys2Proof.Machine

/-! ### Encoding -/

/-- R94: decoding an encoded well-formed transaction gives it back; encoding what a word decodes to gives the word
back; a read carries no data, a write its whole data word, and bits 31:1 of `BSQ_CTRL` are 0. -/
def Obligations.EncodeDecodeInverse : Prop :=
  (∀ i : Instr, i.wf = true → decode (encode i) = .ok i) ∧
  (∀ (T : TWord) (i : Instr), decode T = .ok i → i.wf = true ∧ encode i = T) ∧
  (∀ i : Instr, i.wf = true → fieldW (encode i) = false → fieldD (encode i) = 0#32) ∧
  (∀ d : Word,
    ∀ i ∈ [Instr.wrTx d, .wrWake d, .wrWait d, .wrBsqVtor d, .wrBsqSp d, .wrBsqEntry d, .wrIrqEn d, .wrIrqEnSet d,
      .wrIrqEnClr d, .wrIrqEnXor d, .wrIrqSt d], fieldW (encode i) = true ∧ fieldD (encode i) = d) ∧
  (∀ go : Bool, fieldW (encode (.wrBsqCtrl go)) = true ∧ (fieldD (encode (.wrBsqCtrl go))).extractLsb' 1 31 = 0#31)

/-- R93, R97: the decoder accepts a word exactly when some row of the opcode map selects it, that row is the decoded
transaction's own, and no two rows overlap: at most one row selects a word. -/
def Obligations.DecodeFollowsOpcodeMap : Prop :=
  (∀ T : TWord,
    (∀ i, decode T = .ok i → ∃ r, opcodeRows[rowNumber i]? = some r ∧ r.selects T = true) ∧
    ((∃ r ∈ opcodeRows, r.selects T = true) → ∃ i, decode T = .ok i)) ∧
  (∀ (T : TWord) (m n : Nat) (r q : OpcodeRow), opcodeRows[m]? = some r → opcodeRows[n]? = some q →
    r.selects T = true → q.selects T = true → m = n)

/-- R97: a word with any of the properties (a) to (f) is reserved, whatever its other bits. -/
def Obligations.ReservedWordsRejected : Prop :=
  ∀ T : TWord,
    ((fieldW T = false ∧ fieldD T ≠ 0#32) ∨
     (fieldS T = true ∧ fieldW T = true) ∨
     (fieldS T = false ∧ (fieldA T ∈ [0x06#6, 0x07#6, 0x0E#6, 0x0F#6, 0x15#6, 0x16#6, 0x17#6] ∨ 0x1C#6 ≤ fieldA T)) ∨
     (fieldS T = false ∧ fieldW T = false ∧ fieldA T ∈ [0x02#6, 0x04#6, 0x05#6, 0x0B#6, 0x11#6, 0x12#6, 0x13#6]) ∨
     (fieldS T = false ∧ fieldW T = true ∧
       fieldA T ∈ [0x00#6, 0x01#6, 0x03#6, 0x0C#6, 0x0D#6, 0x18#6, 0x19#6, 0x1A#6, 0x1B#6]) ∨
     (fieldS T = false ∧ fieldW T = true ∧ fieldA T = 0x0B#6 ∧ (fieldD T).extractLsb' 1 31 ≠ 0#31)) →
    ∃ why, decode T = .error why

/-- 95_test_vectors.md E1 to E37 (a selection): words and what they decode to. -/
def Obligations.VectorWordsDecode : Prop :=
  decode 0x0000000000#40 = .ok .rdCpuid ∧ decode 0x82000000A5#40 = .ok (.wrTx 0xA5#32) ∧
  decode 0x84DEADBEEF#40 = .ok (.wrWake 0xDEADBEEF#32) ∧ decode 0x8820000100#40 = .ok (.wrBsqVtor 0x20000100#32) ∧
  decode 0x8B00000001#40 = .ok (.wrBsqCtrl true) ∧ decode 0x8B00000002#40 = .error .ctrlReservedBits ∧
  decode 0x9100000030#40 = .ok (.wrIrqEnSet 0x30#32) ∧ decode 0x5200000000#40 = .ok (.rdVdt 18) ∧
  decode 0xC000000000#40 = .error .tableWrite ∧ decode 0x1B00000000#40 = .ok .rdC1Pc

/-! ### What each transaction does where it completes -/

/-- R121, R31: the identifier read is the port's number, on either port, and nothing else changes. -/
def Obligations.CpuidReadReturnsPort : Prop :=
  ∀ s : State, s.ready = true →
    exec .rdCpuid s = .next { s with rdata := some (if s.port = .p1 then 1#32 else 0#32) }

/-- R122, R26, R32: the status read returns the five flags and 27 zero bits, and changes nothing else. -/
def Obligations.StatusReadReturnsFlags : Prop :=
  ∀ s : State, s.ready = true →
    ∃ v : Word, exec .rdSt s = .next { s with rdata := some v } ∧
      v.getLsbD 0 = !s.full.get s.port.other ∧ v.getLsbD 1 = s.full.get s.port.other ∧
      v.getLsbD 2 = !s.full.get s.port ∧ v.getLsbD 3 = s.full.get s.port ∧ v.getLsbD 4 = s.evt.get s.port ∧
      ∀ n, 5 ≤ n → v.getLsbD n = false

/-- R123: a write to an empty outbound slot stores the word, sets the full flag and records the push; nothing else
changes, in particular no event latch. -/
def Obligations.TxPushesWord : Prop :=
  ∀ (d : Word) (s : State), s.ready = true → (s.port = .p0 → s.bsq.state.busy = false) →
    s.full.get s.port = false →
    exec (.wrTx d) s = .next { s with
      x := s.x.write (slotOf s.port) d, full := s.full.set s.port true, hist := s.hist ++ [.push s.port d],
      rdata := none }

/-- R124: a read of a full inbound slot returns its word, clears the full flag and records the pop; the register
keeps its bits. -/
def Obligations.RxPopsWord : Prop :=
  ∀ (v : Word) (s : State), s.ready = true → (s.port = .p0 → s.bsq.state.busy = false) →
    s.full.get s.port.other = true → s.x.get (slotOf s.port.other) = ⟨v, true⟩ →
    exec .rdRx s = .next { s with
      full := s.full.set s.port.other false, hist := s.hist ++ [.pop s.port.other v], rdata := some v }

/-- R125: the wake sets every core's latch when wakes are remembered, else those of the parked cores; a set latch
stays set; it changes nothing else. The written data does not matter. -/
def Obligations.WakeSetsLatches : Prop :=
  ∀ (d : Word) (s : State), s.ready = true → (s.port = .p0 → s.bsq.state.busy = false) →
    exec (.wrWake d) s = .next { s with
      evt := if s.cfg.evtLatch then ⟨true, true⟩ else ⟨s.evt.c0 || s.parked.c0, s.evt.c1 || s.parked.c1⟩,
      hist := s.hist ++ [.wake (.core s.port)], rdata := none }

/-- R126: outside a handler a wait consumes a latched event, or parks the core; it changes nothing else. The written
data does not matter. -/
def Obligations.WaitConsumesEventOrParks : Prop :=
  ∀ (d : Word) (s : State), s.ready = true → (s.port = .p0 → s.bsq.state.busy = false) →
    s.active.get s.port = none →
    exec (.wrWait d) s = .next
      (if s.evt.get s.port then { s with evt := s.evt.set s.port false, rdata := none }
       else { s with parked := s.parked.set s.port true, rdata := none })

/-- R141, R143, R145: on port 0 a read of a written sequencer register returns it and changes nothing else. -/
def Obligations.SequencerRegisterReads : Prop :=
  ∀ (v : Word) (s : State), s.ready = true → s.port = .p0 →
    (s.x.bsqVtor = ⟨v, true⟩ → exec .rdBsqVtor s = .next { s with rdata := some v }) ∧
    (s.x.bsqSp = ⟨v, true⟩ → exec .rdBsqSp s = .next { s with rdata := some v }) ∧
    (s.x.bsqEntry = ⟨v, true⟩ → exec .rdBsqEntry s = .next { s with rdata := some v })

/-- R142, R144, R146: on port 0, while `IDLE`, a write of a sequencer register stores the word whatever it is, and
changes nothing else. -/
def Obligations.SequencerRegisterWrites : Prop :=
  ∀ (d : Word) (s : State), s.ready = true → s.port = .p0 → s.bsq.state = .idle →
    exec (.wrBsqVtor d) s = .next { s with x := { s.x with bsqVtor := ⟨d, true⟩ }, rdata := none } ∧
    exec (.wrBsqSp d) s = .next { s with x := { s.x with bsqSp := ⟨d, true⟩ }, rdata := none } ∧
    exec (.wrBsqEntry d) s = .next { s with x := { s.x with bsqEntry := ⟨d, true⟩ }, rdata := none }

/-- R147: without `GO` nothing happens, in any sequencer state; with `GO`, from `IDLE`, with the three words written and
the table word equal to `VT_BASE`, the sequencer starts, and `DESYNC`, `RESENDS` and the mailbox stay as they are. -/
def Obligations.GoStartsSequencer : Prop :=
  ∀ s : State, s.ready = true → s.port = .p0 →
    exec (.wrBsqCtrl false) s = .next { s with rdata := none } ∧
    (s.bsq.state = .idle → s.x.bsqVtor = ⟨s.cfg.vtBase, true⟩ → s.x.bsqSp.written = true →
      s.x.bsqEntry.written = true →
      exec (.wrBsqCtrl true) s = .next { s with
        bsq := { state := .draining, k := 0#3, phase := .drain, desync := s.bsq.desync, resends := s.bsq.resends },
        rdata := none })

/-- R148, R39, R149: on port 0 the two sequencer status reads return the fields at their places and the resend count,
and change nothing else. The state and phase codes are those of R39's table, `BUSY` is 1 in the states 1 to 5. -/
def Obligations.SequencerStatusReads : Prop :=
  ∀ s : State, s.ready = true → s.port = .p0 →
    exec .rdBsqResends s = .next { s with rdata := some s.bsq.resends } ∧
    ∃ v : Word, exec .rdBsqSt s = .next { s with rdata := some v } ∧
      v.extractLsb' 0 3 = (match s.bsq.state with
        | .idle => 0#3 | .draining => 1#3 | .startSent => 2#3 | .vtableSent => 3#3 | .stackSent => 4#3
        | .entrySent => 5#3 | .peerRunning => 6#3) ∧
      (v.getLsbD 3 = true ↔ s.bsq.state ≠ .idle ∧ s.bsq.state ≠ .peerRunning) ∧ v.getLsbD 4 = s.bsq.desync ∧
      v.extractLsb' 5 3 = 0#3 ∧ v.extractLsb' 8 3 = s.bsq.k ∧ v.getLsbD 11 = false ∧
      v.extractLsb' 12 3 = (match s.bsq.phase with
        | .drain => 0#3 | .wake => 1#3 | .send => 2#3 | .sendWake => 3#3 | .recv => 4#3) ∧
      v.extractLsb' 15 17 = 0#17

/-- R161, R43: the core 1 status read returns the fields at their places on either port, and changes nothing else. The
phase codes are those of R43's table. -/
def Obligations.CoreOneStatusRead : Prop :=
  ∀ s : State, s.ready = true →
    ∃ v : Word, exec .rdC1St s = .next { s with rdata := some v } ∧
      v.getLsbD 0 = s.c1Running ∧ v.extractLsb' 1 7 = 0#7 ∧ v.extractLsb' 8 3 = s.pbl.k ∧ v.getLsbD 11 = false ∧
      v.extractLsb' 12 2 = (match s.pbl.phase with
        | .recv => 0#2 | .ack => 1#2 | .ackWake => 2#2 | .launch => 3#2) ∧
      v.extractLsb' 14 18 = 0#18

/-- R162, R163, R164: once core 1 runs, the reads of its launch registers return them, on either port, and change
nothing else. -/
def Obligations.LaunchRegisterReads : Prop :=
  ∀ (v : Word) (s : State), s.ready = true → s.c1Running = true →
    (s.x.c1Vtor = ⟨v, true⟩ → exec .rdC1Vtor s = .next { s with rdata := some v }) ∧
    (s.x.c1Sp = ⟨v, true⟩ → exec .rdC1Sp s = .next { s with rdata := some v }) ∧
    (s.x.c1Pc = ⟨v, true⟩ → exec .rdC1Pc s = .next { s with rdata := some v })

/-- R190, R191: a table read in range returns the configured handler, the default handler where none is configured,
and the initial-stack word at index 0; nothing else changes. -/
def Obligations.TableReadReturnsHandler : Prop :=
  ∀ (idx : Nat) (s : State), s.ready = true → idx < s.cfg.nvec →
    ∃ v : Word, exec (.rdVdt idx) s = .next { s with rdata := some v } ∧
      (idx = 0 → v = s.cfg.sp0) ∧
      (idx ≠ 0 → (∀ e ∈ s.cfg.handlers, e.1 ≠ idx) → v = s.cfg.defaultHandler) ∧
      (idx ≠ 0 → (∃ e ∈ s.cfg.handlers, e.1 = idx) → (idx, v) ∈ s.cfg.handlers)

/-- R194, R199: the reads of the port's enables and of the conditions return them and change nothing else. -/
def Obligations.LineRegisterReads : Prop :=
  ∀ s : State, s.ready = true →
    exec .rdIrqEn s = .next { s with rdata := some (s.en.get s.port) } ∧
    exec .rdIrqSt s = .next { s with rdata := some s.cond }

/-- R195, R196, R197, R198: a write of the enables and its set, clear and toggle aliases, each in one step, reach the
issuing port's enables only; bits at and above `NIRQ` written by the first, second and fourth are dropped. -/
def Obligations.EnableWrites : Prop :=
  ∀ (d : Word) (s : State), s.ready = true →
    exec (.wrIrqEn d) s = .next { s with en := s.en.set s.port (d &&& maskIrq s.cfg), rdata := none } ∧
    exec (.wrIrqEnSet d) s =
      .next { s with en := s.en.set s.port ((s.en.get s.port ||| d) &&& maskIrq s.cfg), rdata := none } ∧
    exec (.wrIrqEnClr d) s = .next { s with en := s.en.set s.port (s.en.get s.port &&& ~~~d), rdata := none } ∧
    exec (.wrIrqEnXor d) s =
      .next { s with en := s.en.set s.port ((s.en.get s.port ^^^ d) &&& maskIrq s.cfg), rdata := none }

/-- R200: a write of the condition register clears exactly the conditions whose bit is written 1, from either port. -/
def Obligations.ConditionWriteClears : Prop :=
  ∀ (d : Word) (s : State), s.ready = true →
    ∃ v : Word, exec (.wrIrqSt d) s = .next { s with cond := v, rdata := none } ∧
      ∀ n, v.getLsbD n = (s.cond.getLsbD n && !d.getLsbD n)

/-! ### Where a transaction faults or is refused -/

/-- R120 steps 2 and 3, R252: before readiness every transaction that its port and index admit faults with
`NotReady`, its port and its word. -/
def Obligations.NotReadyFaults : Prop :=
  ∀ (i : Instr) (s : State), s.ready = false → (port0Only i = true → s.port = .p0) →
    (∀ idx, i = .rdVdt idx → idx < s.cfg.nvec) →
    exec i s = .fault (.notReady s.port (encode i))

/-- R98, R190, R253: in every state, ready or not, a sequencer transaction on port 1 is refused, and so is a table read
out of range on either port. -/
def Obligations.RightsRefusals : Prop :=
  (∀ (d : Word) (go : Bool) (s : State), s.port = .p1 →
    ∀ i ∈ [Instr.rdBsqVtor, .wrBsqVtor d, .rdBsqSp, .wrBsqSp d, .rdBsqEntry, .wrBsqEntry d, .wrBsqCtrl go, .rdBsqSt,
      .rdBsqResends], exec i s = .refused (.portRights (encode i) .p1)) ∧
  (∀ (idx : Nat) (s : State), s.cfg.nvec ≤ idx → exec (.rdVdt idx) s = .refused (.vdtIndexRange idx))

/-- R160, R120 step 4: while the sequencer is busy the four mailbox transactions fault on port 0 and no other
transaction on either port raises this fault. -/
def Obligations.SequencerLockout : Prop :=
  (∀ (d : Word) (s : State), s.ready = true → s.port = .p0 → s.bsq.state.busy = true →
    ∀ i ∈ [Instr.wrTx d, .rdRx, .wrWake d, .wrWait d], exec i s = .fault (.seqBusyLockout (encode i))) ∧
  (∀ (i : Instr) (s : State) (T : TWord), exec i s = .fault (.seqBusyLockout T) →
    s.port = .p0 ∧ s.bsq.state.busy = true ∧ (i = .rdRx ∨ ∃ d, i = .wrTx d ∨ i = .wrWake d ∨ i = .wrWait d))

/-- R123, R124, R126: a write to a full slot, a read of an empty one, and a wait inside a handler fault, each with the
arguments the spec records. -/
def Obligations.MailboxMisuseFaults : Prop :=
  ∀ (d : Word) (s : State), s.ready = true → (s.port = .p0 → s.bsq.state.busy = false) →
    (s.full.get s.port = true → exec (.wrTx d) s = .fault (.channelCorrupt s.port .writeWhileFull)) ∧
    (s.full.get s.port.other = false → exec .rdRx s = .fault (.channelCorrupt s.port.other .readWhileEmpty)) ∧
    (s.active.get s.port ≠ none → exec (.wrWait d) s = .fault (.waitInHandler s.port))

/-- R141 to R146, R162 to R164: reads of unwritten registers and of core 1's registers before launch fault, and so do
writes of the sequencer's registers once it has started. -/
def Obligations.RegisterAccessFaults : Prop :=
  ∀ (d : Word) (s : State), s.ready = true →
    (s.c1Running = false → exec .rdC1Vtor s = .fault (.unwrittenRegister .c1Vtor) ∧
      exec .rdC1Sp s = .fault (.unwrittenRegister .c1Sp) ∧ exec .rdC1Pc s = .fault (.unwrittenRegister .c1Pc)) ∧
    (s.port = .p0 →
      (s.x.bsqVtor.written = false → exec .rdBsqVtor s = .fault (.unwrittenRegister .bsqVtor)) ∧
      (s.x.bsqSp.written = false → exec .rdBsqSp s = .fault (.unwrittenRegister .bsqSp)) ∧
      (s.x.bsqEntry.written = false → exec .rdBsqEntry s = .fault (.unwrittenRegister .bsqEntry)) ∧
      (s.bsq.state ≠ .idle → exec (.wrBsqVtor d) s = .fault (.seqRegLocked .bsqVtor) ∧
        exec (.wrBsqSp d) s = .fault (.seqRegLocked .bsqSp) ∧
        exec (.wrBsqEntry d) s = .fault (.seqRegLocked .bsqEntry)))

/-- R147: the faults of `GO`, in the order the rule tests them. -/
def Obligations.GoFaults : Prop :=
  ∀ s : State, s.ready = true → s.port = .p0 →
    exec (.wrBsqCtrl true) s =
      if s.bsq.state ≠ .idle then .fault (.seqReinvoke s.bsq.state)
      else if s.x.bsqVtor.written = false then .fault (.unwrittenRegister .bsqVtor)
      else if s.x.bsqSp.written = false then .fault (.unwrittenRegister .bsqSp)
      else if s.x.bsqEntry.written = false then .fault (.unwrittenRegister .bsqEntry)
      else if s.x.bsqVtor.val ≠ s.cfg.vtBase then .fault (.vtorMismatch s.x.bsqVtor.val)
      else .next { s with bsq := startedSequencer s.bsq, rdata := none }

/-! ### The step -/

/-- R91, R120: when core `c` is scheduled, its stream may step and stands at a transaction whose word decodes to `i`,
the step is `exec i` on port `c`, and after a next state the stream stands past the line with the returned word
bound (that the interleaving is a list of events is the model's: log entries 1 and 12). A refused or faulting
transaction refuses or faults the step. -/
def Obligations.StepRunsDecodedTransaction : Prop :=
  ∀ (s : State) (c : Port) (later : List Event) (opcode : BitVec 8) (data : Operand) (dst : Option Name)
    (rest : Script) (names : List (Name × Word)) (v : Word) (i : Instr),
    s.cfg.wf = true → s.schedule = .core c :: later → streamMayStep s c = true →
    s.streams.get c = ⟨.line (.access opcode data dst) rest, names⟩ → evalOperand names data = some v →
    decode (wordOf opcode v) = .ok i →
    step s = (match exec i { s with schedule := later, port := c } with
      | .next t => .next { t with streams := t.streams.set c ⟨rest, bindReturned dst t.rdata names⟩ }
      | .fault f => .fault f
      | .refused r => .refused r)

/-- R192, R97, R120 step 1, R253: a launch whose configuration is not well formed runs no step; a scheduled line whose
word is reserved is refused with that word, in every state in which the stream may step, ready or not. -/
def Obligations.StepRefusals : Prop :=
  (∀ s : State, s.cfg.wf = false → ∃ why, step s = .refused (.badConfiguration why)) ∧
  (∀ (s : State) (c : Port) (later : List Event) (opcode : BitVec 8) (data : Operand) (dst : Option Name)
    (rest : Script) (names : List (Name × Word)) (v : Word) (why : Reserved),
    s.cfg.wf = true → s.schedule = .core c :: later → streamMayStep s c = true →
    s.streams.get c = ⟨.line (.access opcode data dst) rest, names⟩ → evalOperand names data = some v →
    decode (wordOf opcode v) = .error why →
    step s = .refused (.reservedEncoding (wordOf opcode v)))

/-- R264, R120, R29, R262, R270, R254, R266: what is held changes nothing but takes its event off the
interleaving (the model's form of a hold: log entry 9). A background stream makes no step while its core is
parked, while a dispatch is enabled for it, or while core 1 is halted; a core exception is held before readiness; a
dispatch is held before readiness, on a halted core, inside a handler, and when no line is both pending and
enabled. -/
def Obligations.HeldStepsChangeNothing : Prop :=
  ∀ (s : State) (c : Port) (later : List Event), s.cfg.wf = true →
    (s.schedule = .core c :: later →
      (s.active.get c = none ∧ (s.parked.get c = true ∨ dispatchEnabled s c = true)) ∨
        (c = .p1 ∧ s.c1Running = false) →
      step s = .next { s with schedule := later }) ∧
    (∀ (e : Nat) (rest : Script) (names : List (Name × Word)), s.schedule = .core c :: later → s.ready = false →
      s.streams.get c = ⟨.line (.exc e) rest, names⟩ → 1 ≤ e → e < s.cfg.ncorex →
      step s = .next { s with schedule := later }) ∧
    (s.schedule = .dispatch c :: later →
      (s.ready = false ∨ (c = .p1 ∧ s.c1Running = false) ∨ s.active.get c ≠ none ∨
        s.cond &&& s.en.get c = 0#32) →
      step s = .next { s with schedule := later })

/-! ### Interrupts -/

/-- R62, R65, R262: in a well-formed launch the vector fetch of an index in range reads that entry of the table out of
the little-endian image in main memory, and an entry other than index 0 is never the null reference. -/
def Obligations.VectorFetchReadsTable : Prop :=
  ∀ (c : Config) (idx : Nat), c.wf = true → idx < c.nvec →
    memRead (tableImage c) (vectorAddress c idx) = some (vdt c idx) ∧
    (vectorAddress c idx).toNat = c.vtBase.toNat + 4 * idx ∧ (idx ≠ 0 → vdt c idx ≠ 0#32)

/-- R260: an edge of an existing line latches its condition and is recorded, whatever was latched before; before
readiness it is held. -/
def Obligations.EdgeLatchesCondition : Prop :=
  ∀ (n : Nat) (s : State) (later : List Event), s.cfg.wf = true → s.schedule = .edge n :: later → n < nirq s.cfg →
    (s.ready = true →
      ∃ v : Word, step s = .next { s with schedule := later, cond := v, hist := s.hist ++ [.edge n] } ∧
        ∀ m, m < 32 → v.getLsbD m = (s.cond.getLsbD m || decide (m = n))) ∧
    (s.ready = false → step s = .next { s with schedule := later })

/-- R262, R263, R271 (a): an enabled dispatch takes the lowest pending enabled line `n`: the handler is that of index
`NCOREX + n`, the saved point is the interrupted stream, and only `RESUME`, `ACTIVE`, `pc`, the stream and the history
of that core change. The model's choices: the 32-bit value saved for the point is free (log entry 3): any `r`; the
handler's stream starts with no bound names (log entry 11). -/
def Obligations.DispatchEntersLowestLine : Prop :=
  ∀ (s : State) (c : Port) (later : List Event), Inv s → s.schedule = .dispatch c :: later →
    dispatchEnabled s c = true →
    ∃ (n : Nat) (kind : HandlerKind) (r : Word),
      n < nirq s.cfg ∧ (s.cond &&& s.en.get c).getLsbD n = true ∧
      (∀ m < n, (s.cond &&& s.en.get c).getLsbD m = false) ∧
      hkind s.cfg (vdt s.cfg (s.cfg.ncorex + n)) = some kind ∧
      step s = .next { s with
        schedule := later, fresh := s.fresh + 1,
        resume := s.resume.set c ⟨r, s.streams.get c⟩, active := s.active.set c (some (s.cfg.ncorex + n)),
        pc := s.pc.set c (vdt s.cfg (s.cfg.ncorex + n)), streams := s.streams.set c ⟨handlerScript kind, []⟩,
        hist := s.hist ++ [.dispatch c (s.cfg.ncorex + n) (vdt s.cfg (s.cfg.ncorex + n))] }

/-- R266: a core exception in the background stream enters the handler of its own index with the stream saved after
the line; inside a handler it faults. (Before readiness it is held: `HeldStepsChangeNothing`.) The model's choices: the
32-bit value saved for the point is free (log entry 3): any `r`; the handler's stream starts with no bound names (log
entry 11). -/
def Obligations.ExceptionEntersHandler : Prop :=
  ∀ (s : State) (c : Port) (later : List Event) (e : Nat) (rest : Script) (names : List (Name × Word)),
    s.cfg.wf = true → s.schedule = .core c :: later → s.ready = true → streamMayStep s c = true →
    s.streams.get c = ⟨.line (.exc e) rest, names⟩ → 1 ≤ e → e < s.cfg.ncorex →
    (s.active.get c ≠ none → step s = .fault (.nestedException c e)) ∧
    (s.active.get c = none → ∃ (kind : HandlerKind) (r : Word), hkind s.cfg (vdt s.cfg e) = some kind ∧
      step s = .next { s with
        schedule := later, fresh := s.fresh + 1,
        resume := s.resume.set c ⟨r, ⟨rest, names⟩⟩, active := s.active.set c (some e),
        pc := s.pc.set c (vdt s.cfg e), streams := s.streams.set c ⟨handlerScript kind, []⟩,
        hist := s.hist ++ [.dispatch c e (vdt s.cfg e)] })

/-- R267: a handler whose script has ended, and that is no trap loop, returns: the program counter and the stream are
the saved ones, no handler is active, and nothing else changes but the history. -/
def Obligations.HandlerReturnRestores : Prop :=
  ∀ (s : State) (c : Port) (later : List Event) (idx : Nat), s.cfg.wf = true → s.schedule = .hret c :: later →
    s.active.get c = some idx → (s.streams.get c).script = .done →
    hkind s.cfg (vdt s.cfg idx) ≠ some .trapLoop →
    step s = .next { s with
      schedule := later, active := s.active.set c none, pc := s.pc.set c (s.resume.get c).pc,
      streams := s.streams.set c (s.resume.get c).stream, hist := s.hist ++ [.ret c] }

/-- R268, R264: a handler that returns with its line still pending and enabled is dispatched again before the
background stream moves: after the return the dispatch is enabled and the core's own step is held. -/
def Obligations.UnclearedLineReenters : Prop :=
  ∀ (s : State) (c : Port), s.ready = true → coreRuns s c = true → hretEnabled s c = true →
    s.cond &&& s.en.get c ≠ 0#32 →
    ∃ t, hret c s = .next t ∧ dispatchEnabled t c = true ∧ coreStep c t = .next t

/-- R269, R255: nothing but a reset gets a core out of a trap loop: whatever agent steps, the handler stays active, and
the core's program counter and saved point stay as they are. -/
def Obligations.TrapLoopNeverLeft : Prop :=
  ∀ (s t : State) (c : Port), Inv s → inTrapLoop s c = true → s.schedule.head? ≠ some .reset → step s = .next t →
    inTrapLoop t c = true ∧ t.active.get c = s.active.get c ∧ t.pc.get c = s.pc.get c ∧
      t.resume.get c = s.resume.get c

/-! ### The autonomous agents -/

/-- R127: `WAIT_RESUME` of a parked core with an event latched consumes the event and unparks the core; it is held
otherwise. -/
def Obligations.WaitResumeConsumesEvent : Prop :=
  ∀ (s : State) (p : Port) (later : List Event), s.cfg.wf = true → s.schedule = .waitResume p :: later →
    step s = .next
      (if s.parked.get p = true ∧ s.evt.get p = true then
        { s with schedule := later, evt := s.evt.set p false, parked := s.parked.set p false }
       else { s with schedule := later })

/-- R153, R154, R156: the drain phase pops a full inbound slot and stays, or goes on to the wake phase on seeing it
empty; the two wake phases broadcast the event and go on (that the wake after a send is a step of its own is the
spec's decision D10, R156). -/
def Obligations.SequencerDrainAndWake : Prop :=
  ∀ (s : State) (later : List Event) (v : Word), s.cfg.wf = true → s.schedule = .bsqStep :: later →
    s.ready = true → s.bsq.state.busy = true →
    (s.bsq.phase = .drain → s.full.c1 = true → s.x.slot1 = ⟨v, true⟩ →
      step s = .next { s with schedule := later, full := ⟨s.full.c0, false⟩, hist := s.hist ++ [.pop .p1 v] }) ∧
    (s.bsq.phase = .drain → s.full.c1 = false →
      step s = .next { s with schedule := later, bsq := { s.bsq with phase := .wake } }) ∧
    (∀ ph next, (ph, next) ∈ [(BsqPhase.wake, BsqPhase.send), (.sendWake, .recv)] → s.bsq.phase = ph →
      step s = .next { s with
        schedule := later,
        evt := if s.cfg.evtLatch then ⟨true, true⟩ else ⟨s.evt.c0 || s.parked.c0, s.evt.c1 || s.parked.c1⟩,
        hist := s.hist ++ [.wake .bsq], bsq := { s.bsq with phase := next } })

/-- R155, R150: the send phase is held by a full outbound slot; else it pushes the command word of its step, one of
`0, 0, 1, x[2], x[3], x[4]`. -/
def Obligations.SequencerSendsCommand : Prop :=
  ∀ (s : State) (later : List Event), Inv s → s.schedule = .bsqStep :: later →
    s.ready = true → s.bsq.state.busy = true → s.bsq.phase = .send →
    (s.full.c0 = true → step s = .next { s with schedule := later }) ∧
    (s.full.c0 = false → ∃ w : Word,
      [0#32, 0#32, 1#32, s.x.bsqVtor.val, s.x.bsqSp.val, s.x.bsqEntry.val][s.bsq.k.toNat]? = some w ∧
      step s = .next { s with
        schedule := later, x := { s.x with slot0 := ⟨w, true⟩ }, full := ⟨true, s.full.c1⟩,
        hist := s.hist ++ [.push .p0 w], bsq := { s.bsq with phase := .sendWake } })

/-- R157, R158: the receive phase is held by an empty inbound slot; else it pops the acknowledgement and, when it is
the expected one, advances one step; when it is not, marks the mismatch, counts it modulo 2^32, and repeats the same
step, from the drain phase at a probe. -/
def Obligations.SequencerReceivesAcknowledgement : Prop :=
  ∀ (s : State) (later : List Event), Inv s → s.schedule = .bsqStep :: later →
    s.ready = true → s.bsq.state.busy = true → s.bsq.phase = .recv →
    (s.full.c1 = false → step s = .next { s with schedule := later }) ∧
    (s.full.c1 = true → s.x.slot1.val = ackFor s.cfg s.bsq.k (commandWord s s.bsq.k) →
      step s = .next { s with
        schedule := later, full := ⟨s.full.c0, false⟩, hist := s.hist ++ [.pop .p1 s.x.slot1.val],
        bsq := { s.bsq with
          k := s.bsq.k + 1#3, state := stateOfStep (s.bsq.k + 1#3),
          phase := if s.bsq.k = 0#3 ∨ s.bsq.k = 5#3 then .drain else .send } }) ∧
    (s.full.c1 = true → s.x.slot1.val ≠ ackFor s.cfg s.bsq.k (commandWord s s.bsq.k) →
      step s = .next { s with
        schedule := later, full := ⟨s.full.c0, false⟩,
        hist := s.hist ++ [.pop .p1 s.x.slot1.val, .resend s.bsq.k],
        bsq := { s.bsq with
          desync := true, resends := s.bsq.resends + 1#32, phase := if s.bsq.k ≤ 1#3 then .drain else .send } })

/-- R171, R174: the responder's receive phase is held by an empty slot; a probe step that receives another word, or
step 2 without the start command, faults; a word that is accepted is popped, kept for its acknowledgement, and kept
for core 1 at steps 3, 4 and 5. -/
def Obligations.ResponderReceives : Prop :=
  ∀ (s : State) (later : List Event) (w : Word), s.cfg.wf = true → s.schedule = .pblStep :: later →
    s.ready = true → s.c1Running = false → s.cfg.peer = .pbl → s.pbl.phase = .recv →
    (s.full.c0 = false → step s = .next { s with schedule := later }) ∧
    (s.full.c0 = true → s.x.slot0 = ⟨w, true⟩ →
      if (s.pbl.k ≤ 1#3 ∧ w ≠ 0#32) ∨ (s.pbl.k = 2#3 ∧ w ≠ 1#32) then
        step s = .fault (.handshakeDeviation s.pbl.k w)
      else step s = .next { s with
        schedule := later, full := ⟨false, s.full.c1⟩, hist := s.hist ++ [.pop .p0 w],
        pbl := { k := s.pbl.k, phase := .ack, w := w },
        x := { s.x with
          c1Vtor := if s.pbl.k = 3#3 then ⟨w, true⟩ else s.x.c1Vtor,
          c1Sp := if s.pbl.k = 4#3 then ⟨w, true⟩ else s.x.c1Sp,
          c1Pc := if s.pbl.k = 5#3 then ⟨w, true⟩ else s.x.c1Pc } })

/-- R172, R173: the acknowledgement is pushed when direction 1 is empty and held while it is full; the wake after it
moves the responder to its next step, or to the launch after the sixth word. -/
def Obligations.ResponderAcknowledges : Prop :=
  ∀ (s : State) (later : List Event), s.cfg.wf = true → s.schedule = .pblStep :: later →
    s.ready = true → s.c1Running = false → s.cfg.peer = .pbl →
    (s.pbl.phase = .ack → s.full.c1 = true → step s = .next { s with schedule := later }) ∧
    (s.pbl.phase = .ack → s.full.c1 = false →
      step s = .next { s with
        schedule := later, x := { s.x with slot1 := ⟨ackFor s.cfg s.pbl.k s.pbl.w, true⟩ },
        full := ⟨s.full.c0, true⟩, hist := s.hist ++ [.push .p1 (ackFor s.cfg s.pbl.k s.pbl.w)],
        pbl := { s.pbl with phase := .ackWake } }) ∧
    (s.pbl.phase = .ackWake →
      step s = .next { s with
        schedule := later,
        evt := if s.cfg.evtLatch then ⟨true, true⟩ else ⟨s.evt.c0 || s.parked.c0, s.evt.c1 || s.parked.c1⟩,
        hist := s.hist ++ [.wake .pbl],
        pbl := { s.pbl with k := s.pbl.k + 1#3, phase := if s.pbl.k = 5#3 then .launch else .recv } })

/-- R176: the launch installs core 1 with the three captured words when the table word is `VT_BASE`, its program
counter at the entry word and its stream at the program of that entry; another table word faults. -/
def Obligations.LaunchStartsCoreOne : Prop :=
  ∀ (s : State) (later : List Event) (vt sp entry : Word), s.cfg.wf = true → s.schedule = .pblStep :: later →
    s.ready = true → s.c1Running = false → s.cfg.peer = .pbl → s.pbl.phase = .launch →
    s.x.c1Vtor = ⟨vt, true⟩ → s.x.c1Sp = ⟨sp, true⟩ → s.x.c1Pc = ⟨entry, true⟩ →
    step s =
      if vt ≠ s.cfg.vtBase then .fault (.vtorMismatch vt)
      else .next { s with
        schedule := later, c1Running := true, pc := ⟨s.pc.c0, entry⟩, pbl := { s.pbl with phase := .recv },
        streams := ⟨s.streams.c0, ⟨progFor s.cfg entry, []⟩⟩, hist := s.hist ++ [.launch vt sp entry] }

/-- R300, R20, R303: reset, in every state, empties both slots, clears events, parked cores, enables and conditions,
puts the sequencer in `IDLE` and the responder at step 0, halts core 1, ends every handler, makes every word register
unwritten, empties `FAULTS` and `HIST`, takes `READY` down, starts both scripts again as a new run without a refusal
mark, and leaves the configuration and core 0's program counter as they are. The model's choices: the bits of what R20
leaves unwritten (log entries 4, 5), and that the interleaving and the counter of free values go on while the port and
the returned word are cleared (log entry 15). Readiness comes up once and changes nothing else. -/
def Obligations.ResetAndReadiness : Prop :=
  ∀ (s : State) (later : List Event), s.cfg.wf = true →
    (s.schedule = .reset :: later →
      step s = .next { s with
        x := { slot0 := ⟨0#32, false⟩, slot1 := ⟨0#32, false⟩, bsqVtor := ⟨0#32, false⟩, bsqSp := ⟨0#32, false⟩,
               bsqEntry := ⟨0#32, false⟩, c1Vtor := ⟨0#32, false⟩, c1Sp := ⟨0#32, false⟩, c1Pc := ⟨0#32, false⟩ },
        full := ⟨false, false⟩, evt := ⟨false, false⟩, parked := ⟨false, false⟩,
        bsq := { state := .idle, k := 0#3, phase := .drain, desync := false, resends := 0#32 },
        pbl := { k := 0#3, phase := .recv, w := 0#32 }, c1Running := false,
        en := ⟨0#32, 0#32⟩, cond := 0#32, active := ⟨none, none⟩,
        resume := ⟨⟨0#32, ⟨.done, []⟩⟩, ⟨0#32, ⟨.done, []⟩⟩⟩, pc := ⟨s.pc.c0, 0#32⟩,
        ready := false, faults := [], hist := [], streams := ⟨⟨s.cfg.script0, []⟩, ⟨.done, []⟩⟩,
        schedule := later, port := .p0, rdata := none, refusedMark := false }) ∧
    (s.schedule = .readyUp :: later → step s = .next { s with schedule := later, ready := true })

/-- R228: a report appends its entry and does nothing else to the block; the stream goes on. -/
def Obligations.ReportOnlyRecords : Prop :=
  ∀ (s : State) (c : Port) (later : List Event) (d : Operand) (v : Word) (rest : Script)
    (names : List (Name × Word)),
    s.cfg.wf = true → s.schedule = .core c :: later → streamMayStep s c = true →
    s.streams.get c = ⟨.line (.report d) rest, names⟩ → evalOperand names d = some v →
    step s = .next { s with
      schedule := later, hist := s.hist ++ [.report c v], streams := s.streams.set c ⟨rest, names⟩ }

/-- R177: the simulated peer's transaction is executed on port 1, before launch and only when `PEER == ENV`; otherwise
there is no such step (it changes nothing: log entries 9 and 21). -/
def Obligations.SimulatedPeerOnPortOne : Prop :=
  ∀ (s : State) (later : List Event) (op : EnvOp), s.cfg.wf = true → s.schedule = .env op :: later →
    step s =
      if s.c1Running = false ∧ s.cfg.peer = .env then exec op.instr { s with schedule := later, port := .p1 }
      else .next { s with schedule := later }

/-! ### Rules of the whole machine -/

/-- R49: every step from a state that meets the invariants ends in a state that meets them, whatever agent moves. -/
def Obligations.StepKeepsInvariants : Prop :=
  ∀ s t : State, Inv s → step s = .next t → Inv t

/-- The invariants hold after reset, with any well-formed configuration (R49, R50). -/
def Obligations.ResetMeetsInvariants : Prop :=
  Inv State.reset ∧ ∀ (c : Config) (later : List Event), c.wf = true → Inv { State.initial c with schedule := later }

/-- R71, R128: over any run without a reset, from any state, for each direction: the word in the slot at the start
followed by the words pushed is the words popped followed by the word in the slot at the end. So what is popped is
what was pushed, in order, nothing twice and nothing lost. -/
def Obligations.MailboxIsFifo : Prop :=
  ∀ s t : State, Event.reset ∉ s.schedule → Runs s t →
    ∃ new, t.hist = s.hist ++ new ∧
      ∀ d : Port, inFlight s d ++ pushesOf d new = popsOf d new ++ inFlight t d

/-- R178, R174 (last part): in every interleaving of all agents, a handshake between sequencer and responder that is in
step stays in step: no acknowledgement ever mismatches, and the captured words are those sent. Only a reset ends it. -/
def Obligations.HandshakeStaysInStep : Prop :=
  ∀ s t : State, HandshakeInStep s → step s = .next t → s.schedule.head? = some .reset ∨ HandshakeInStep t

/-- R147, R178: from the clean premises, `GO` with the three words written starts a handshake that is in step. -/
def Obligations.GoStartsHandshakeInStep : Prop :=
  ∀ s : State, Inv s → s.ready = true → s.port = .p0 → s.cfg.peer = .pbl → CleanMailbox s → SeqIdle s → PeerHalted s →
    s.x.bsqVtor = ⟨s.cfg.vtBase, true⟩ → s.x.bsqSp.written = true → s.x.bsqEntry.written = true →
    ∃ t, exec (.wrBsqCtrl true) s = .next t ∧ HandshakeInStep t

/-- R178, R254: a handshake in step never gets stuck and its two agents never fault: each answers a next state, and
until core 1 runs and the sequencer has finished, one of the two is not held. -/
def Obligations.HandshakeProgresses : Prop :=
  ∀ s : State, HandshakeInStep s → s.ready = true →
    (∃ t, bsqStep s = .next t) ∧ (∃ t, pblStep s = .next t) ∧
    (¬ (s.bsq.state = .peerRunning ∧ s.c1Running = true) →
      bsqStep s ≠ .next s ∨ pblStep s ≠ .next s)

/-- R178: when a handshake in step has finished, core 1 has the three words core 0 wrote, no acknowledgement
mismatched, and the registers show `PEER_RUNNING` and a running core 1. -/
def Obligations.HandshakeDeliversWords : Prop :=
  ∀ s : State, HandshakeInStep s → s.bsq.state = .peerRunning → s.c1Running = true →
    s.x.c1Vtor = s.x.bsqVtor ∧ s.x.c1Sp = s.x.bsqSp ∧ s.x.c1Pc = s.x.bsqEntry ∧
      s.x.c1Vtor = ⟨s.cfg.vtBase, true⟩ ∧ s.bsq.k = 6#3 ∧
      bsqStatusWord s.bsq = 0x00000606#32 ∧ c1StatusWord s = 0x00000601#32

/-- R29: `C1_RUNNING` goes up only in the responder's launch phase and down only by reset, and while it is 0 core 1
takes no interrupt and its stream makes no step. -/
def Obligations.CoreOneRunsOnlyByLaunch : Prop :=
  ∀ s t : State, step s = .next t →
    (s.c1Running = false → t.c1Running = true → s.schedule.head? = some .pblStep ∧ s.pbl.phase = .launch) ∧
    (s.c1Running = true → t.c1Running = false → s.schedule.head? = some .reset) ∧
    (s.c1Running = false →
      s.schedule.head? = some (.core .p1) ∨ s.schedule.head? = some (.dispatch .p1) →
      t = { s with schedule := s.schedule.tail })

/-- R25: a direction's full flag is set by the step that pushes a word into its register, which finds it clear, and
cleared by the step that pops the word, which finds it set; but for reset no other step writes it, and while it is set
the register keeps its word. -/
def Obligations.FullFlagFollowsPushPop : Prop :=
  ∀ (s t : State) (d : Port), step s = .next t → s.schedule.head? ≠ some .reset →
    (∀ v, t.hist = s.hist ++ [.push d v] →
      s.full.get d = false ∧ t.full.get d = true ∧ t.x.get (slotOf d) = ⟨v, true⟩) ∧
    (∀ v new, t.hist = s.hist ++ .pop d v :: new →
      s.full.get d = true ∧ t.full.get d = false ∧ v = (s.x.get (slotOf d)).val) ∧
    (s.full.get d = false → t.full.get d = true → ∃ v, t.hist = s.hist ++ [.push d v]) ∧
    (s.full.get d = true → t.full.get d = false → ∃ v new, t.hist = s.hist ++ .pop d v :: new) ∧
    (s.full.get d = true → t.x.get (slotOf d) = s.x.get (slotOf d))

/-- R24, R49 (b), R159: but for reset, the step counters of sequencer and responder stay or go up by one, and
`PEER_RUNNING` is never left. -/
def Obligations.SequencerNeverRewinds : Prop :=
  ∀ s t : State, Inv s → step s = .next t → s.schedule.head? ≠ some .reset →
    (t.bsq.k = s.bsq.k ∨ t.bsq.k.toNat = s.bsq.k.toNat + 1) ∧ (t.pbl.k = s.pbl.k ∨ t.pbl.k.toNat = s.pbl.k.toNat + 1) ∧
    (s.bsq.state = .peerRunning → t.bsq = s.bsq) ∧ (s.bsq.desync = true → t.bsq.desync = true)

/-- R126, R127, R285, R265: but for reset, a parked core is unparked only by its own `WAIT_RESUME`, with an event
latched; an interrupt served meanwhile does not end the wait. -/
def Obligations.OnlyAnEventEndsAWait : Prop :=
  ∀ (s t : State) (c : Port), step s = .next t → s.schedule.head? ≠ some .reset →
    s.parked.get c = true → t.parked.get c = false →
    s.schedule.head? = some (.waitResume c) ∧ s.evt.get c = true ∧ t.evt.get c = false

/-- R61, R282: a transaction reaches its own port's bank only: the other port's enables and parked state do not change,
its latch changes only by a wake, and no transaction changes a handler, a saved point, a program counter (R23), the
responder, the launch, readiness or the configuration. -/
def Obligations.TransactionReachesOwnBank : Prop :=
  ∀ (i : Instr) (s t : State), exec i s = .next t →
    t.en.get s.port.other = s.en.get s.port.other ∧ t.parked.get s.port.other = s.parked.get s.port.other ∧
    ((∀ d, i ≠ .wrWake d) → t.evt.get s.port.other = s.evt.get s.port.other) ∧
    t.active = s.active ∧ t.resume = s.resume ∧ t.pc = s.pc ∧ t.pbl = s.pbl ∧ t.c1Running = s.c1Running ∧
    t.ready = s.ready ∧ t.cfg = s.cfg ∧ t.faults = s.faults ∧ t.streams = s.streams ∧ t.schedule = s.schedule ∧
    t.fresh = s.fresh ∧ t.port = s.port ∧ t.refusedMark = s.refusedMark

/-- R42, R260, R261, R300: but for reset, a condition is set only by its own line's edge, and cleared only by the step of
a core whose stream stands at a word that decodes to `WR.IRQ_ST` with that bit set; a dispatch, a handler's return and
every other step clear none (R262, R267). -/
def Obligations.ConditionSetByEdgeOnly : Prop :=
  ∀ (s t : State) (n : Nat), step s = .next t → s.schedule.head? ≠ some .reset →
    (s.cond.getLsbD n = false → t.cond.getLsbD n = true → s.schedule.head? = some (.edge n)) ∧
    (s.cond.getLsbD n = true → t.cond.getLsbD n = false →
      ∃ (c : Port) (opcode : BitVec 8) (data : Operand) (dst : Option Name) (rest : Script) (v d : Word),
        s.schedule.head? = some (.core c) ∧ (s.streams.get c).script = .line (.access opcode data dst) rest ∧
        evalOperand (s.streams.get c).names data = some v ∧ decode (wordOf opcode v) = .ok (.wrIrqSt d) ∧
        d.getLsbD n = true)

/-- R45, R75, R36, R142: no step changes the launch configuration, so no step changes the vector table or its image;
but for reset the history only grows, and the sequencer's three words stay as they are once it has started. -/
def Obligations.LaunchConstantsStay : Prop :=
  ∀ s t : State, step s = .next t →
    t.cfg = s.cfg ∧ tableImage t.cfg = tableImage s.cfg ∧ Memory.wf (tableImage t.cfg) = true ∧
    (s.schedule.head? ≠ some .reset →
      (∃ new, t.hist = s.hist ++ new) ∧
      (s.bsq.state ≠ .idle →
        t.x.bsqVtor = s.x.bsqVtor ∧ t.x.bsqSp = s.x.bsqSp ∧ t.x.bsqEntry = s.x.bsqEntry))
end

