-- ==== Sys2Proof/Laws/Basic.lean ====
section
/-! SUPPORT. Lemmas about pairs, word registers and lookups: read after write, and what a write leaves alone. -/

namespace Sys2Proof

@[simp] theorem Port.other_other (p : Port) : p.other.other = p := by cases p <;> rfl
@[simp] theorem Port.other_p0 : Port.other .p0 = .p1 := rfl
@[simp] theorem Port.other_p1 : Port.other .p1 = .p0 := rfl
@[simp] theorem Port.other_ne (p : Port) : p.other ≠ p := by cases p <;> decide
@[simp] theorem Port.ne_other (p : Port) : p ≠ p.other := by cases p <;> decide
theorem Port.ne_iff_eq_other (p q : Port) : q ≠ p ↔ q = p.other := by cases p <;> cases q <;> decide

@[simp] theorem Pair.get_p0 {α : Type} (b : Pair α) : b.get .p0 = b.c0 := rfl
@[simp] theorem Pair.get_p1 {α : Type} (b : Pair α) : b.get .p1 = b.c1 := rfl
@[simp] theorem Pair.set_p0 {α : Type} (b : Pair α) (v : α) : b.set .p0 v = ⟨v, b.c1⟩ := rfl
@[simp] theorem Pair.set_p1 {α : Type} (b : Pair α) (v : α) : b.set .p1 v = ⟨b.c0, v⟩ := rfl
@[simp] theorem Pair.get_set_same {α : Type} (b : Pair α) (p : Port) (v : α) : (b.set p v).get p = v := by
  cases p <;> rfl
@[simp] theorem Pair.get_set_other {α : Type} (b : Pair α) (p : Port) (v : α) :
    (b.set p v).get p.other = b.get p.other := by
  cases p <;> rfl
@[simp] theorem Pair.get_other_set {α : Type} (b : Pair α) (p : Port) (v : α) :
    (b.set p.other v).get p = b.get p := by
  cases p <;> rfl
@[simp] theorem Pair.set_set {α : Type} (b : Pair α) (p : Port) (u v : α) : (b.set p u).set p v = b.set p v := by
  cases p <;> rfl
theorem Pair.get_set {α : Type} (b : Pair α) (p q : Port) (v : α) :
    (b.set p v).get q = if q = p then v else b.get q := by
  cases p <;> cases q <;> rfl
@[simp] theorem Pair.get_map {α β : Type} (f : Port → α → β) (b : Pair α) (p : Port) :
    (b.map f).get p = f p (b.get p) := by
  cases p <;> rfl

namespace Machine

@[simp] theorem WordRegs.get_write_same (x : WordRegs) (r : RegName) (v : Word) : (x.write r v).get r = ⟨v, true⟩ := by
  cases r <;> rfl
theorem WordRegs.get_write (x : WordRegs) (r q : RegName) (v : Word) :
    (x.write r v).get q = if q = r then ⟨v, true⟩ else x.get q := by
  cases r <;> cases q <;> rfl
theorem WordRegs.get_write_ne (x : WordRegs) {r q : RegName} (v : Word) (h : q ≠ r) : (x.write r v).get q = x.get q := by
  rw [WordRegs.get_write, if_neg h]

@[simp] theorem slotOf_p0 : slotOf .p0 = .slot0 := rfl
@[simp] theorem slotOf_p1 : slotOf .p1 = .slot1 := rfl
theorem slotOf_inj {p q : Port} : slotOf p = slotOf q ↔ p = q := by cases p <;> cases q <;> decide

end Machine

end Sys2Proof
end

