-- ==== Sys2Proof/Laws/State.lean ====
section
/-! SUPPORT. One lemma per field per update of the state: what each named update leaves in each field. -/

namespace Sys2Proof.Machine

@[simp] theorem State.writeReg_x (s : State) (r : RegName) (v : Word) : (s.writeReg r v).x = s.x.write r v := rfl
@[simp] theorem State.writeReg_full (s : State) (r : RegName) (v : Word) : (s.writeReg r v).full = s.full := rfl
@[simp] theorem State.writeReg_evt (s : State) (r : RegName) (v : Word) : (s.writeReg r v).evt = s.evt := rfl
@[simp] theorem State.writeReg_parked (s : State) (r : RegName) (v : Word) : (s.writeReg r v).parked = s.parked := rfl
@[simp] theorem State.writeReg_bsq (s : State) (r : RegName) (v : Word) : (s.writeReg r v).bsq = s.bsq := rfl
@[simp] theorem State.writeReg_pbl (s : State) (r : RegName) (v : Word) : (s.writeReg r v).pbl = s.pbl := rfl
@[simp] theorem State.writeReg_c1Running (s : State) (r : RegName) (v : Word) : (s.writeReg r v).c1Running = s.c1Running := rfl
@[simp] theorem State.writeReg_en (s : State) (r : RegName) (v : Word) : (s.writeReg r v).en = s.en := rfl
@[simp] theorem State.writeReg_cond (s : State) (r : RegName) (v : Word) : (s.writeReg r v).cond = s.cond := rfl
@[simp] theorem State.writeReg_active (s : State) (r : RegName) (v : Word) : (s.writeReg r v).active = s.active := rfl
@[simp] theorem State.writeReg_resume (s : State) (r : RegName) (v : Word) : (s.writeReg r v).resume = s.resume := rfl
@[simp] theorem State.writeReg_pc (s : State) (r : RegName) (v : Word) : (s.writeReg r v).pc = s.pc := rfl
@[simp] theorem State.writeReg_ready (s : State) (r : RegName) (v : Word) : (s.writeReg r v).ready = s.ready := rfl
@[simp] theorem State.writeReg_faults (s : State) (r : RegName) (v : Word) : (s.writeReg r v).faults = s.faults := rfl
@[simp] theorem State.writeReg_hist (s : State) (r : RegName) (v : Word) : (s.writeReg r v).hist = s.hist := rfl
@[simp] theorem State.writeReg_cfg (s : State) (r : RegName) (v : Word) : (s.writeReg r v).cfg = s.cfg := rfl
@[simp] theorem State.writeReg_streams (s : State) (r : RegName) (v : Word) : (s.writeReg r v).streams = s.streams := rfl
@[simp] theorem State.writeReg_schedule (s : State) (r : RegName) (v : Word) : (s.writeReg r v).schedule = s.schedule := rfl
@[simp] theorem State.writeReg_port (s : State) (r : RegName) (v : Word) : (s.writeReg r v).port = s.port := rfl
@[simp] theorem State.writeReg_rdata (s : State) (r : RegName) (v : Word) : (s.writeReg r v).rdata = s.rdata := rfl
@[simp] theorem State.writeReg_refusedMark (s : State) (r : RegName) (v : Word) : (s.writeReg r v).refusedMark = s.refusedMark := rfl
@[simp] theorem State.writeReg_fresh (s : State) (r : RegName) (v : Word) : (s.writeReg r v).fresh = s.fresh := rfl

@[simp] theorem State.log_x (s : State) (e : HistEntry) : (s.log e).x = s.x := rfl
@[simp] theorem State.log_full (s : State) (e : HistEntry) : (s.log e).full = s.full := rfl
@[simp] theorem State.log_evt (s : State) (e : HistEntry) : (s.log e).evt = s.evt := rfl
@[simp] theorem State.log_parked (s : State) (e : HistEntry) : (s.log e).parked = s.parked := rfl
@[simp] theorem State.log_bsq (s : State) (e : HistEntry) : (s.log e).bsq = s.bsq := rfl
@[simp] theorem State.log_pbl (s : State) (e : HistEntry) : (s.log e).pbl = s.pbl := rfl
@[simp] theorem State.log_c1Running (s : State) (e : HistEntry) : (s.log e).c1Running = s.c1Running := rfl
@[simp] theorem State.log_en (s : State) (e : HistEntry) : (s.log e).en = s.en := rfl
@[simp] theorem State.log_cond (s : State) (e : HistEntry) : (s.log e).cond = s.cond := rfl
@[simp] theorem State.log_active (s : State) (e : HistEntry) : (s.log e).active = s.active := rfl
@[simp] theorem State.log_resume (s : State) (e : HistEntry) : (s.log e).resume = s.resume := rfl
@[simp] theorem State.log_pc (s : State) (e : HistEntry) : (s.log e).pc = s.pc := rfl
@[simp] theorem State.log_ready (s : State) (e : HistEntry) : (s.log e).ready = s.ready := rfl
@[simp] theorem State.log_faults (s : State) (e : HistEntry) : (s.log e).faults = s.faults := rfl
@[simp] theorem State.log_hist (s : State) (e : HistEntry) : (s.log e).hist = s.hist ++ [e] := rfl
@[simp] theorem State.log_cfg (s : State) (e : HistEntry) : (s.log e).cfg = s.cfg := rfl
@[simp] theorem State.log_streams (s : State) (e : HistEntry) : (s.log e).streams = s.streams := rfl
@[simp] theorem State.log_schedule (s : State) (e : HistEntry) : (s.log e).schedule = s.schedule := rfl
@[simp] theorem State.log_port (s : State) (e : HistEntry) : (s.log e).port = s.port := rfl
@[simp] theorem State.log_rdata (s : State) (e : HistEntry) : (s.log e).rdata = s.rdata := rfl
@[simp] theorem State.log_refusedMark (s : State) (e : HistEntry) : (s.log e).refusedMark = s.refusedMark := rfl
@[simp] theorem State.log_fresh (s : State) (e : HistEntry) : (s.log e).fresh = s.fresh := rfl

@[simp] theorem State.push_x (s : State) (d : Port) (v : Word) : (s.push d v).x = s.x.write (slotOf d) v := rfl
@[simp] theorem State.push_full (s : State) (d : Port) (v : Word) : (s.push d v).full = s.full.set d true := rfl
@[simp] theorem State.push_evt (s : State) (d : Port) (v : Word) : (s.push d v).evt = s.evt := rfl
@[simp] theorem State.push_parked (s : State) (d : Port) (v : Word) : (s.push d v).parked = s.parked := rfl
@[simp] theorem State.push_bsq (s : State) (d : Port) (v : Word) : (s.push d v).bsq = s.bsq := rfl
@[simp] theorem State.push_pbl (s : State) (d : Port) (v : Word) : (s.push d v).pbl = s.pbl := rfl
@[simp] theorem State.push_c1Running (s : State) (d : Port) (v : Word) : (s.push d v).c1Running = s.c1Running := rfl
@[simp] theorem State.push_en (s : State) (d : Port) (v : Word) : (s.push d v).en = s.en := rfl
@[simp] theorem State.push_cond (s : State) (d : Port) (v : Word) : (s.push d v).cond = s.cond := rfl
@[simp] theorem State.push_active (s : State) (d : Port) (v : Word) : (s.push d v).active = s.active := rfl
@[simp] theorem State.push_resume (s : State) (d : Port) (v : Word) : (s.push d v).resume = s.resume := rfl
@[simp] theorem State.push_pc (s : State) (d : Port) (v : Word) : (s.push d v).pc = s.pc := rfl
@[simp] theorem State.push_ready (s : State) (d : Port) (v : Word) : (s.push d v).ready = s.ready := rfl
@[simp] theorem State.push_faults (s : State) (d : Port) (v : Word) : (s.push d v).faults = s.faults := rfl
@[simp] theorem State.push_hist (s : State) (d : Port) (v : Word) : (s.push d v).hist = s.hist ++ [.push d v] := rfl
@[simp] theorem State.push_cfg (s : State) (d : Port) (v : Word) : (s.push d v).cfg = s.cfg := rfl
@[simp] theorem State.push_streams (s : State) (d : Port) (v : Word) : (s.push d v).streams = s.streams := rfl
@[simp] theorem State.push_schedule (s : State) (d : Port) (v : Word) : (s.push d v).schedule = s.schedule := rfl
@[simp] theorem State.push_port (s : State) (d : Port) (v : Word) : (s.push d v).port = s.port := rfl
@[simp] theorem State.push_rdata (s : State) (d : Port) (v : Word) : (s.push d v).rdata = s.rdata := rfl
@[simp] theorem State.push_refusedMark (s : State) (d : Port) (v : Word) : (s.push d v).refusedMark = s.refusedMark := rfl
@[simp] theorem State.push_fresh (s : State) (d : Port) (v : Word) : (s.push d v).fresh = s.fresh := rfl

@[simp] theorem State.pop_x (s : State) (d : Port) (v : Word) : (s.pop d v).x = s.x := rfl
@[simp] theorem State.pop_full (s : State) (d : Port) (v : Word) : (s.pop d v).full = s.full.set d false := rfl
@[simp] theorem State.pop_evt (s : State) (d : Port) (v : Word) : (s.pop d v).evt = s.evt := rfl
@[simp] theorem State.pop_parked (s : State) (d : Port) (v : Word) : (s.pop d v).parked = s.parked := rfl
@[simp] theorem State.pop_bsq (s : State) (d : Port) (v : Word) : (s.pop d v).bsq = s.bsq := rfl
@[simp] theorem State.pop_pbl (s : State) (d : Port) (v : Word) : (s.pop d v).pbl = s.pbl := rfl
@[simp] theorem State.pop_c1Running (s : State) (d : Port) (v : Word) : (s.pop d v).c1Running = s.c1Running := rfl
@[simp] theorem State.pop_en (s : State) (d : Port) (v : Word) : (s.pop d v).en = s.en := rfl
@[simp] theorem State.pop_cond (s : State) (d : Port) (v : Word) : (s.pop d v).cond = s.cond := rfl
@[simp] theorem State.pop_active (s : State) (d : Port) (v : Word) : (s.pop d v).active = s.active := rfl
@[simp] theorem State.pop_resume (s : State) (d : Port) (v : Word) : (s.pop d v).resume = s.resume := rfl
@[simp] theorem State.pop_pc (s : State) (d : Port) (v : Word) : (s.pop d v).pc = s.pc := rfl
@[simp] theorem State.pop_ready (s : State) (d : Port) (v : Word) : (s.pop d v).ready = s.ready := rfl
@[simp] theorem State.pop_faults (s : State) (d : Port) (v : Word) : (s.pop d v).faults = s.faults := rfl
@[simp] theorem State.pop_hist (s : State) (d : Port) (v : Word) : (s.pop d v).hist = s.hist ++ [.pop d v] := rfl
@[simp] theorem State.pop_cfg (s : State) (d : Port) (v : Word) : (s.pop d v).cfg = s.cfg := rfl
@[simp] theorem State.pop_streams (s : State) (d : Port) (v : Word) : (s.pop d v).streams = s.streams := rfl
@[simp] theorem State.pop_schedule (s : State) (d : Port) (v : Word) : (s.pop d v).schedule = s.schedule := rfl
@[simp] theorem State.pop_port (s : State) (d : Port) (v : Word) : (s.pop d v).port = s.port := rfl
@[simp] theorem State.pop_rdata (s : State) (d : Port) (v : Word) : (s.pop d v).rdata = s.rdata := rfl
@[simp] theorem State.pop_refusedMark (s : State) (d : Port) (v : Word) : (s.pop d v).refusedMark = s.refusedMark := rfl
@[simp] theorem State.pop_fresh (s : State) (d : Port) (v : Word) : (s.pop d v).fresh = s.fresh := rfl

@[simp] theorem State.wake_x (s : State) (a : WakeAgent) : (s.wake a).x = s.x := rfl
@[simp] theorem State.wake_full (s : State) (a : WakeAgent) : (s.wake a).full = s.full := rfl
@[simp] theorem State.wake_evt (s : State) (a : WakeAgent) : (s.wake a).evt = wokenLatches s := rfl
@[simp] theorem State.wake_parked (s : State) (a : WakeAgent) : (s.wake a).parked = s.parked := rfl
@[simp] theorem State.wake_bsq (s : State) (a : WakeAgent) : (s.wake a).bsq = s.bsq := rfl
@[simp] theorem State.wake_pbl (s : State) (a : WakeAgent) : (s.wake a).pbl = s.pbl := rfl
@[simp] theorem State.wake_c1Running (s : State) (a : WakeAgent) : (s.wake a).c1Running = s.c1Running := rfl
@[simp] theorem State.wake_en (s : State) (a : WakeAgent) : (s.wake a).en = s.en := rfl
@[simp] theorem State.wake_cond (s : State) (a : WakeAgent) : (s.wake a).cond = s.cond := rfl
@[simp] theorem State.wake_active (s : State) (a : WakeAgent) : (s.wake a).active = s.active := rfl
@[simp] theorem State.wake_resume (s : State) (a : WakeAgent) : (s.wake a).resume = s.resume := rfl
@[simp] theorem State.wake_pc (s : State) (a : WakeAgent) : (s.wake a).pc = s.pc := rfl
@[simp] theorem State.wake_ready (s : State) (a : WakeAgent) : (s.wake a).ready = s.ready := rfl
@[simp] theorem State.wake_faults (s : State) (a : WakeAgent) : (s.wake a).faults = s.faults := rfl
@[simp] theorem State.wake_hist (s : State) (a : WakeAgent) : (s.wake a).hist = s.hist ++ [.wake a] := rfl
@[simp] theorem State.wake_cfg (s : State) (a : WakeAgent) : (s.wake a).cfg = s.cfg := rfl
@[simp] theorem State.wake_streams (s : State) (a : WakeAgent) : (s.wake a).streams = s.streams := rfl
@[simp] theorem State.wake_schedule (s : State) (a : WakeAgent) : (s.wake a).schedule = s.schedule := rfl
@[simp] theorem State.wake_port (s : State) (a : WakeAgent) : (s.wake a).port = s.port := rfl
@[simp] theorem State.wake_rdata (s : State) (a : WakeAgent) : (s.wake a).rdata = s.rdata := rfl
@[simp] theorem State.wake_refusedMark (s : State) (a : WakeAgent) : (s.wake a).refusedMark = s.refusedMark := rfl
@[simp] theorem State.wake_fresh (s : State) (a : WakeAgent) : (s.wake a).fresh = s.fresh := rfl

@[simp] theorem State.writeEnable_x (s : State) (v : Word) : (s.writeEnable v).x = s.x := rfl
@[simp] theorem State.writeEnable_full (s : State) (v : Word) : (s.writeEnable v).full = s.full := rfl
@[simp] theorem State.writeEnable_evt (s : State) (v : Word) : (s.writeEnable v).evt = s.evt := rfl
@[simp] theorem State.writeEnable_parked (s : State) (v : Word) : (s.writeEnable v).parked = s.parked := rfl
@[simp] theorem State.writeEnable_bsq (s : State) (v : Word) : (s.writeEnable v).bsq = s.bsq := rfl
@[simp] theorem State.writeEnable_pbl (s : State) (v : Word) : (s.writeEnable v).pbl = s.pbl := rfl
@[simp] theorem State.writeEnable_c1Running (s : State) (v : Word) : (s.writeEnable v).c1Running = s.c1Running := rfl
@[simp] theorem State.writeEnable_en (s : State) (v : Word) : (s.writeEnable v).en = s.en.set s.port v := rfl
@[simp] theorem State.writeEnable_cond (s : State) (v : Word) : (s.writeEnable v).cond = s.cond := rfl
@[simp] theorem State.writeEnable_active (s : State) (v : Word) : (s.writeEnable v).active = s.active := rfl
@[simp] theorem State.writeEnable_resume (s : State) (v : Word) : (s.writeEnable v).resume = s.resume := rfl
@[simp] theorem State.writeEnable_pc (s : State) (v : Word) : (s.writeEnable v).pc = s.pc := rfl
@[simp] theorem State.writeEnable_ready (s : State) (v : Word) : (s.writeEnable v).ready = s.ready := rfl
@[simp] theorem State.writeEnable_faults (s : State) (v : Word) : (s.writeEnable v).faults = s.faults := rfl
@[simp] theorem State.writeEnable_hist (s : State) (v : Word) : (s.writeEnable v).hist = s.hist := rfl
@[simp] theorem State.writeEnable_cfg (s : State) (v : Word) : (s.writeEnable v).cfg = s.cfg := rfl
@[simp] theorem State.writeEnable_streams (s : State) (v : Word) : (s.writeEnable v).streams = s.streams := rfl
@[simp] theorem State.writeEnable_schedule (s : State) (v : Word) : (s.writeEnable v).schedule = s.schedule := rfl
@[simp] theorem State.writeEnable_port (s : State) (v : Word) : (s.writeEnable v).port = s.port := rfl
@[simp] theorem State.writeEnable_rdata (s : State) (v : Word) : (s.writeEnable v).rdata = s.rdata := rfl
@[simp] theorem State.writeEnable_refusedMark (s : State) (v : Word) : (s.writeEnable v).refusedMark = s.refusedMark := rfl
@[simp] theorem State.writeEnable_fresh (s : State) (v : Word) : (s.writeEnable v).fresh = s.fresh := rfl

@[simp] theorem State.bsqPhase_x (s : State) (ph : BsqPhase) : (s.bsqPhase ph).x = s.x := rfl
@[simp] theorem State.bsqPhase_full (s : State) (ph : BsqPhase) : (s.bsqPhase ph).full = s.full := rfl
@[simp] theorem State.bsqPhase_evt (s : State) (ph : BsqPhase) : (s.bsqPhase ph).evt = s.evt := rfl
@[simp] theorem State.bsqPhase_parked (s : State) (ph : BsqPhase) : (s.bsqPhase ph).parked = s.parked := rfl
@[simp] theorem State.bsqPhase_bsq (s : State) (ph : BsqPhase) : (s.bsqPhase ph).bsq = { s.bsq with phase := ph } := rfl
@[simp] theorem State.bsqPhase_pbl (s : State) (ph : BsqPhase) : (s.bsqPhase ph).pbl = s.pbl := rfl
@[simp] theorem State.bsqPhase_c1Running (s : State) (ph : BsqPhase) : (s.bsqPhase ph).c1Running = s.c1Running := rfl
@[simp] theorem State.bsqPhase_en (s : State) (ph : BsqPhase) : (s.bsqPhase ph).en = s.en := rfl
@[simp] theorem State.bsqPhase_cond (s : State) (ph : BsqPhase) : (s.bsqPhase ph).cond = s.cond := rfl
@[simp] theorem State.bsqPhase_active (s : State) (ph : BsqPhase) : (s.bsqPhase ph).active = s.active := rfl
@[simp] theorem State.bsqPhase_resume (s : State) (ph : BsqPhase) : (s.bsqPhase ph).resume = s.resume := rfl
@[simp] theorem State.bsqPhase_pc (s : State) (ph : BsqPhase) : (s.bsqPhase ph).pc = s.pc := rfl
@[simp] theorem State.bsqPhase_ready (s : State) (ph : BsqPhase) : (s.bsqPhase ph).ready = s.ready := rfl
@[simp] theorem State.bsqPhase_faults (s : State) (ph : BsqPhase) : (s.bsqPhase ph).faults = s.faults := rfl
@[simp] theorem State.bsqPhase_hist (s : State) (ph : BsqPhase) : (s.bsqPhase ph).hist = s.hist := rfl
@[simp] theorem State.bsqPhase_cfg (s : State) (ph : BsqPhase) : (s.bsqPhase ph).cfg = s.cfg := rfl
@[simp] theorem State.bsqPhase_streams (s : State) (ph : BsqPhase) : (s.bsqPhase ph).streams = s.streams := rfl
@[simp] theorem State.bsqPhase_schedule (s : State) (ph : BsqPhase) : (s.bsqPhase ph).schedule = s.schedule := rfl
@[simp] theorem State.bsqPhase_port (s : State) (ph : BsqPhase) : (s.bsqPhase ph).port = s.port := rfl
@[simp] theorem State.bsqPhase_rdata (s : State) (ph : BsqPhase) : (s.bsqPhase ph).rdata = s.rdata := rfl
@[simp] theorem State.bsqPhase_refusedMark (s : State) (ph : BsqPhase) : (s.bsqPhase ph).refusedMark = s.refusedMark := rfl
@[simp] theorem State.bsqPhase_fresh (s : State) (ph : BsqPhase) : (s.bsqPhase ph).fresh = s.fresh := rfl

@[simp] theorem State.report_x (s : State) (c : Port) (v : Word) : (s.report c v).x = s.x := rfl
@[simp] theorem State.report_full (s : State) (c : Port) (v : Word) : (s.report c v).full = s.full := rfl
@[simp] theorem State.report_evt (s : State) (c : Port) (v : Word) : (s.report c v).evt = s.evt := rfl
@[simp] theorem State.report_parked (s : State) (c : Port) (v : Word) : (s.report c v).parked = s.parked := rfl
@[simp] theorem State.report_bsq (s : State) (c : Port) (v : Word) : (s.report c v).bsq = s.bsq := rfl
@[simp] theorem State.report_pbl (s : State) (c : Port) (v : Word) : (s.report c v).pbl = s.pbl := rfl
@[simp] theorem State.report_c1Running (s : State) (c : Port) (v : Word) : (s.report c v).c1Running = s.c1Running := rfl
@[simp] theorem State.report_en (s : State) (c : Port) (v : Word) : (s.report c v).en = s.en := rfl
@[simp] theorem State.report_cond (s : State) (c : Port) (v : Word) : (s.report c v).cond = s.cond := rfl
@[simp] theorem State.report_active (s : State) (c : Port) (v : Word) : (s.report c v).active = s.active := rfl
@[simp] theorem State.report_resume (s : State) (c : Port) (v : Word) : (s.report c v).resume = s.resume := rfl
@[simp] theorem State.report_pc (s : State) (c : Port) (v : Word) : (s.report c v).pc = s.pc := rfl
@[simp] theorem State.report_ready (s : State) (c : Port) (v : Word) : (s.report c v).ready = s.ready := rfl
@[simp] theorem State.report_faults (s : State) (c : Port) (v : Word) : (s.report c v).faults = s.faults := rfl
@[simp] theorem State.report_hist (s : State) (c : Port) (v : Word) : (s.report c v).hist = s.hist ++ [.report c v] := rfl
@[simp] theorem State.report_cfg (s : State) (c : Port) (v : Word) : (s.report c v).cfg = s.cfg := rfl
@[simp] theorem State.report_streams (s : State) (c : Port) (v : Word) : (s.report c v).streams = s.streams := rfl
@[simp] theorem State.report_schedule (s : State) (c : Port) (v : Word) : (s.report c v).schedule = s.schedule := rfl
@[simp] theorem State.report_port (s : State) (c : Port) (v : Word) : (s.report c v).port = s.port := rfl
@[simp] theorem State.report_rdata (s : State) (c : Port) (v : Word) : (s.report c v).rdata = s.rdata := rfl
@[simp] theorem State.report_refusedMark (s : State) (c : Port) (v : Word) : (s.report c v).refusedMark = s.refusedMark := rfl
@[simp] theorem State.report_fresh (s : State) (c : Port) (v : Word) : (s.report c v).fresh = s.fresh := rfl

@[simp] theorem State.advance_x (s : State) (c : Port) (r : Script) (m : List (Name × Word)) : (s.advance c r m).x = s.x := rfl
@[simp] theorem State.advance_full (s : State) (c : Port) (r : Script) (m : List (Name × Word)) : (s.advance c r m).full = s.full := rfl
@[simp] theorem State.advance_evt (s : State) (c : Port) (r : Script) (m : List (Name × Word)) : (s.advance c r m).evt = s.evt := rfl
@[simp] theorem State.advance_parked (s : State) (c : Port) (r : Script) (m : List (Name × Word)) : (s.advance c r m).parked = s.parked := rfl
@[simp] theorem State.advance_bsq (s : State) (c : Port) (r : Script) (m : List (Name × Word)) : (s.advance c r m).bsq = s.bsq := rfl
@[simp] theorem State.advance_pbl (s : State) (c : Port) (r : Script) (m : List (Name × Word)) : (s.advance c r m).pbl = s.pbl := rfl
@[simp] theorem State.advance_c1Running (s : State) (c : Port) (r : Script) (m : List (Name × Word)) : (s.advance c r m).c1Running = s.c1Running := rfl
@[simp] theorem State.advance_en (s : State) (c : Port) (r : Script) (m : List (Name × Word)) : (s.advance c r m).en = s.en := rfl
@[simp] theorem State.advance_cond (s : State) (c : Port) (r : Script) (m : List (Name × Word)) : (s.advance c r m).cond = s.cond := rfl
@[simp] theorem State.advance_active (s : State) (c : Port) (r : Script) (m : List (Name × Word)) : (s.advance c r m).active = s.active := rfl
@[simp] theorem State.advance_resume (s : State) (c : Port) (r : Script) (m : List (Name × Word)) : (s.advance c r m).resume = s.resume := rfl
@[simp] theorem State.advance_pc (s : State) (c : Port) (r : Script) (m : List (Name × Word)) : (s.advance c r m).pc = s.pc := rfl
@[simp] theorem State.advance_ready (s : State) (c : Port) (r : Script) (m : List (Name × Word)) : (s.advance c r m).ready = s.ready := rfl
@[simp] theorem State.advance_faults (s : State) (c : Port) (r : Script) (m : List (Name × Word)) : (s.advance c r m).faults = s.faults := rfl
@[simp] theorem State.advance_hist (s : State) (c : Port) (r : Script) (m : List (Name × Word)) : (s.advance c r m).hist = s.hist := rfl
@[simp] theorem State.advance_cfg (s : State) (c : Port) (r : Script) (m : List (Name × Word)) : (s.advance c r m).cfg = s.cfg := rfl
@[simp] theorem State.advance_streams (s : State) (c : Port) (r : Script) (m : List (Name × Word)) : (s.advance c r m).streams = s.streams.set c ⟨r, m⟩ := rfl
@[simp] theorem State.advance_schedule (s : State) (c : Port) (r : Script) (m : List (Name × Word)) : (s.advance c r m).schedule = s.schedule := rfl
@[simp] theorem State.advance_port (s : State) (c : Port) (r : Script) (m : List (Name × Word)) : (s.advance c r m).port = s.port := rfl
@[simp] theorem State.advance_rdata (s : State) (c : Port) (r : Script) (m : List (Name × Word)) : (s.advance c r m).rdata = s.rdata := rfl
@[simp] theorem State.advance_refusedMark (s : State) (c : Port) (r : Script) (m : List (Name × Word)) : (s.advance c r m).refusedMark = s.refusedMark := rfl
@[simp] theorem State.advance_fresh (s : State) (c : Port) (r : Script) (m : List (Name × Word)) : (s.advance c r m).fresh = s.fresh := rfl

@[simp] theorem leaveHandler_x (c : Port) (s : State) : (leaveHandler c s).x = s.x := rfl
@[simp] theorem leaveHandler_full (c : Port) (s : State) : (leaveHandler c s).full = s.full := rfl
@[simp] theorem leaveHandler_evt (c : Port) (s : State) : (leaveHandler c s).evt = s.evt := rfl
@[simp] theorem leaveHandler_parked (c : Port) (s : State) : (leaveHandler c s).parked = s.parked := rfl
@[simp] theorem leaveHandler_bsq (c : Port) (s : State) : (leaveHandler c s).bsq = s.bsq := rfl
@[simp] theorem leaveHandler_pbl (c : Port) (s : State) : (leaveHandler c s).pbl = s.pbl := rfl
@[simp] theorem leaveHandler_c1Running (c : Port) (s : State) : (leaveHandler c s).c1Running = s.c1Running := rfl
@[simp] theorem leaveHandler_en (c : Port) (s : State) : (leaveHandler c s).en = s.en := rfl
@[simp] theorem leaveHandler_cond (c : Port) (s : State) : (leaveHandler c s).cond = s.cond := rfl
@[simp] theorem leaveHandler_active (c : Port) (s : State) : (leaveHandler c s).active = s.active.set c none := rfl
@[simp] theorem leaveHandler_resume (c : Port) (s : State) : (leaveHandler c s).resume = s.resume := rfl
@[simp] theorem leaveHandler_pc (c : Port) (s : State) : (leaveHandler c s).pc = s.pc.set c (s.resume.get c).pc := rfl
@[simp] theorem leaveHandler_ready (c : Port) (s : State) : (leaveHandler c s).ready = s.ready := rfl
@[simp] theorem leaveHandler_faults (c : Port) (s : State) : (leaveHandler c s).faults = s.faults := rfl
@[simp] theorem leaveHandler_hist (c : Port) (s : State) : (leaveHandler c s).hist = s.hist ++ [.ret c] := rfl
@[simp] theorem leaveHandler_cfg (c : Port) (s : State) : (leaveHandler c s).cfg = s.cfg := rfl
@[simp] theorem leaveHandler_streams (c : Port) (s : State) : (leaveHandler c s).streams = s.streams.set c (s.resume.get c).stream := rfl
@[simp] theorem leaveHandler_schedule (c : Port) (s : State) : (leaveHandler c s).schedule = s.schedule := rfl
@[simp] theorem leaveHandler_port (c : Port) (s : State) : (leaveHandler c s).port = s.port := rfl
@[simp] theorem leaveHandler_rdata (c : Port) (s : State) : (leaveHandler c s).rdata = s.rdata := rfl
@[simp] theorem leaveHandler_refusedMark (c : Port) (s : State) : (leaveHandler c s).refusedMark = s.refusedMark := rfl
@[simp] theorem leaveHandler_fresh (c : Port) (s : State) : (leaveHandler c s).fresh = s.fresh := rfl

@[simp] theorem resetState_x (s : State) : (resetState s).x = (State.initial s.cfg).x := rfl
@[simp] theorem resetState_full (s : State) : (resetState s).full = (State.initial s.cfg).full := rfl
@[simp] theorem resetState_evt (s : State) : (resetState s).evt = (State.initial s.cfg).evt := rfl
@[simp] theorem resetState_parked (s : State) : (resetState s).parked = (State.initial s.cfg).parked := rfl
@[simp] theorem resetState_bsq (s : State) : (resetState s).bsq = (State.initial s.cfg).bsq := rfl
@[simp] theorem resetState_pbl (s : State) : (resetState s).pbl = (State.initial s.cfg).pbl := rfl
@[simp] theorem resetState_c1Running (s : State) : (resetState s).c1Running = (State.initial s.cfg).c1Running := rfl
@[simp] theorem resetState_en (s : State) : (resetState s).en = (State.initial s.cfg).en := rfl
@[simp] theorem resetState_cond (s : State) : (resetState s).cond = (State.initial s.cfg).cond := rfl
@[simp] theorem resetState_active (s : State) : (resetState s).active = (State.initial s.cfg).active := rfl
@[simp] theorem resetState_resume (s : State) : (resetState s).resume = (State.initial s.cfg).resume := rfl
@[simp] theorem resetState_pc (s : State) : (resetState s).pc = ⟨s.pc.c0, 0#32⟩ := rfl
@[simp] theorem resetState_ready (s : State) : (resetState s).ready = (State.initial s.cfg).ready := rfl
@[simp] theorem resetState_faults (s : State) : (resetState s).faults = (State.initial s.cfg).faults := rfl
@[simp] theorem resetState_hist (s : State) : (resetState s).hist = (State.initial s.cfg).hist := rfl
@[simp] theorem resetState_cfg (s : State) : (resetState s).cfg = s.cfg := rfl
@[simp] theorem resetState_streams (s : State) : (resetState s).streams = (State.initial s.cfg).streams := rfl
@[simp] theorem resetState_schedule (s : State) : (resetState s).schedule = s.schedule := rfl
@[simp] theorem resetState_port (s : State) : (resetState s).port = (State.initial s.cfg).port := rfl
@[simp] theorem resetState_rdata (s : State) : (resetState s).rdata = (State.initial s.cfg).rdata := rfl
@[simp] theorem resetState_refusedMark (s : State) : (resetState s).refusedMark = false := rfl
@[simp] theorem resetState_fresh (s : State) : (resetState s).fresh = s.fresh := rfl

@[simp] theorem State.initial_x (c : Config) : (State.initial c).x = ⟨.unwritten, .unwritten, .unwritten, .unwritten, .unwritten, .unwritten, .unwritten, .unwritten⟩ := rfl
@[simp] theorem State.initial_full (c : Config) : (State.initial c).full = ⟨false, false⟩ := rfl
@[simp] theorem State.initial_evt (c : Config) : (State.initial c).evt = ⟨false, false⟩ := rfl
@[simp] theorem State.initial_parked (c : Config) : (State.initial c).parked = ⟨false, false⟩ := rfl
@[simp] theorem State.initial_bsq (c : Config) : (State.initial c).bsq = ⟨.idle, 0#3, .drain, false, 0#32⟩ := rfl
@[simp] theorem State.initial_pbl (c : Config) : (State.initial c).pbl = ⟨0#3, .recv, 0#32⟩ := rfl
@[simp] theorem State.initial_c1Running (c : Config) : (State.initial c).c1Running = false := rfl
@[simp] theorem State.initial_en (c : Config) : (State.initial c).en = ⟨0#32, 0#32⟩ := rfl
@[simp] theorem State.initial_cond (c : Config) : (State.initial c).cond = 0#32 := rfl
@[simp] theorem State.initial_active (c : Config) : (State.initial c).active = ⟨none, none⟩ := rfl
@[simp] theorem State.initial_resume (c : Config) : (State.initial c).resume = ⟨⟨0#32, .empty⟩, ⟨0#32, .empty⟩⟩ := rfl
@[simp] theorem State.initial_pc (c : Config) : (State.initial c).pc = ⟨0#32, 0#32⟩ := rfl
@[simp] theorem State.initial_ready (c : Config) : (State.initial c).ready = false := rfl
@[simp] theorem State.initial_faults (c : Config) : (State.initial c).faults = [] := rfl
@[simp] theorem State.initial_hist (c : Config) : (State.initial c).hist = [] := rfl
@[simp] theorem State.initial_cfg (c : Config) : (State.initial c).cfg = c := rfl
@[simp] theorem State.initial_streams (c : Config) : (State.initial c).streams = ⟨⟨c.script0, []⟩, .empty⟩ := rfl
@[simp] theorem State.initial_schedule (c : Config) : (State.initial c).schedule = [] := rfl
@[simp] theorem State.initial_port (c : Config) : (State.initial c).port = .p0 := rfl
@[simp] theorem State.initial_rdata (c : Config) : (State.initial c).rdata = none := rfl
@[simp] theorem State.initial_refusedMark (c : Config) : (State.initial c).refusedMark = false := rfl
@[simp] theorem State.initial_fresh (c : Config) : (State.initial c).fresh = 0 := rfl

end Sys2Proof.Machine
end

