-- ==== Sys2Proof/Laws/Ops.lean ====
section
/-! SUPPORT. One lemma per shared operation: everything it can do when it answers a next state. -/

namespace Sys2Proof.Machine

@[simp] theorem answer_next {v : Word} {s t : State} : answer v s = .next t ↔ t = { s with rdata := some v } := by
  simp [answer, eq_comm]

@[simp] theorem finish_next {s t : State} : finish s = .next t ↔ t = { s with rdata := none } := by
  simp [finish, eq_comm]

@[simp] theorem hold_next {s t : State} : hold s = .next t ↔ t = s := by simp [hold, eq_comm]

/-- A register read goes on only with a written register's value (R8, R22). -/
theorem readReg_next {s t : State} {r : RegName} {k : Word → Result} (h : s.readReg r k = .next t) :
    (s.x.get r).written = true ∧ k (s.x.get r).val = .next t := by
  unfold State.readReg at h
  split at h
  · exact ⟨‹_›, h⟩
  · cases h

theorem readReg_written {s : State} {r : RegName} {k : Word → Result} (h : (s.x.get r).written = true) :
    s.readReg r k = k (s.x.get r).val := by
  simp [State.readReg, h]

theorem readReg_unwritten {s : State} {r : RegName} {k : Word → Result} (h : (s.x.get r).written = false) :
    s.readReg r k = .fault (.unwrittenRegister r) := by
  simp [State.readReg, h]

/-- The common checks pass exactly when neither R120 step 2 nor steps 3 and 4 object. -/
theorem checked_pass {i : Instr} {s : State} {own : Result} (h2 : rightsProblem s.cfg s.port i = none)
    (h3 : admissionProblem s i = none) : checked i s own = own := by
  simp [checked, h2, h3]

/-- A state admits a transaction when the block is ready and the lockout does not apply (R120 steps 3 and 4). -/
theorem admissionProblem_none {s : State} {i : Instr} (hr : s.ready = true)
    (hb : s.port = .p0 → lockoutListed i = true → s.bsq.state.busy = false) : admissionProblem s i = none := by
  cases hp : s.port <;> cases hl : lockoutListed i <;> simp_all [admissionProblem]

/-- A port admits a transaction when it is not for port 0 only, or the port is 0, and a table index is in range
(R98, R120 step 2). -/
theorem rightsProblem_none {c : Config} {p : Port} {i : Instr} (hp : port0Only i = true → p = .p0)
    (hv : ∀ idx, i = .rdVdt idx → idx < c.nvec) : rightsProblem c p i = none := by
  have h : (port0Only i && p == .p1) = false := by
    cases hi : port0Only i
    · rfl
    · rw [hp hi]; rfl
  unfold rightsProblem
  rw [h]
  split
  · contradiction
  · split
    · rename_i idx
      rw [if_neg (Nat.not_le.mpr (hv idx rfl))]
    · rfl

/-- A transaction without a table index passes R98 when it is not for port 0 only. -/
theorem rightsProblem_any {c : Config} {p : Port} {i : Instr} (hp : port0Only i = false)
    (hv : ∀ idx, i ≠ .rdVdt idx) : rightsProblem c p i = none :=
  rightsProblem_none (by simp [hp]) (fun idx h => absurd h (hv idx))

/-- A transaction that answers a next state passed the common checks, and its own rule answers it (R120). -/
theorem checked_next {i : Instr} {s t : State} {own : Result} (h : checked i s own = .next t) :
    rightsProblem s.cfg s.port i = none ∧ admissionProblem s i = none ∧ own = .next t := by
  unfold checked at h
  split at h
  · cases h
  · split at h
    · cases h
    · exact ⟨‹_›, ‹_›, h⟩

/-- A transaction that faults does so in the common checks, or passed them and its own rule faults (R120). -/
theorem checked_fault {i : Instr} {s : State} {own : Result} {f : Fault} (h : checked i s own = .fault f) :
    admissionProblem s i = some f ∨
      (rightsProblem s.cfg s.port i = none ∧ admissionProblem s i = none ∧ own = .fault f) := by
  unfold checked at h
  split at h
  · cases h
  · split at h
    · rename_i hf
      cases h
      exact .inl hf
    · exact .inr ⟨‹_›, ‹_›, h⟩

/-- A transaction is executed only while the block is ready (R120 step 3). -/
theorem admissionProblem_ready {s : State} {i : Instr} (h : admissionProblem s i = none) : s.ready = true := by
  unfold admissionProblem at h
  split at h
  · cases h
  · rename_i hr
    simpa using hr

/-- The port-0 lockout (R120 step 4, R160). -/
theorem admissionProblem_lockout {s : State} {i : Instr} (h : admissionProblem s i = none) (hp : s.port = .p0)
    (hi : lockoutListed i = true) : s.bsq.state.busy = false := by
  have hr := admissionProblem_ready h
  simpa [admissionProblem, hr, hp, hi] using h

/-- Taking a handler (R262, R266): the reference is the word fetched from the table, and the state changes in the
saved context, the active index, the program counter, the stream and the history only. -/
theorem enterHandler_next {c : Port} {idx : Nat} {s t : State} (h : enterHandler c idx s = .next t) :
    ∃ handler kind, memRead (tableImage s.cfg) (vectorAddress s.cfg idx) = some handler ∧
      hkind s.cfg handler = some kind ∧
      t = { s with
            resume := s.resume.set c ⟨Config.resumePoint s.fresh, s.streams.get c⟩
            fresh := s.fresh + 1
            active := s.active.set c (some idx)
            pc := s.pc.set c handler
            streams := s.streams.set c ⟨handlerScript kind, []⟩
            hist := s.hist ++ [.dispatch c idx handler] } := by
  unfold enterHandler at h
  split at h
  · cases h
  · split at h
    · cases h
    · cases h
      exact ⟨_, _, ‹_›, ‹_›, rfl⟩

/-- `lowbit` answers a set bit below 32 with no set bit below it (R12). -/
theorem lowbit_some {m : Word} {n : Nat} (h : lowbit m = some n) :
    n < 32 ∧ m.getLsbD n = true ∧ ∀ j < n, m.getLsbD j = false := by
  unfold lowbit at h
  obtain ⟨hb, i, hi, hn, hlt⟩ := List.find?_eq_some_iff_getElem.mp h
  simp only [List.length_range, List.getElem_range] at hi hn hlt
  subst hn
  exact ⟨hi, hb, fun j hj => by simpa using hlt j hj⟩

/-- `lowbit` is defined on every nonzero word (R12). -/
theorem lowbit_isSome {m : Word} (h : m ≠ 0#32) : ∃ n, lowbit m = some n := by
  rcases hl : lowbit m with _ | n
  · exfalso
    apply h
    apply BitVec.eq_of_getLsbD_eq
    intro i hi
    have := List.find?_eq_none.mp hl i (by simpa using hi)
    simpa using this
  · exact ⟨n, rfl⟩

/-- `DISPATCH c` either is not enabled and changes nothing, or takes the lowest pending enabled line (R262). -/
theorem dispatch_next {c : Port} {s t : State} (h : dispatch c s = .next t) :
    (dispatchEnabled s c = false ∧ t = s) ∨
    (dispatchEnabled s c = true ∧ ∃ n, lowbit (pendingLines s c) = some n ∧
      enterHandler c (s.cfg.ncorex + n) s = .next t) := by
  unfold dispatch at h
  split at h
  · rename_i he
    have hne : pendingLines s c ≠ 0#32 := by
      simp only [dispatchEnabled, Bool.and_eq_true, bne_iff_ne] at he
      exact he.2
    obtain ⟨n, hn⟩ := lowbit_isSome hne
    rw [hn] at h
    exact .inr ⟨he, n, hn, h⟩
  · rename_i he
    exact .inl ⟨by simpa using he, by simpa using h⟩

/-- `EXC c e` either is held, or takes the exception with the stream saved after the line (R266). -/
theorem exception_next {c : Port} {e : Nat} {rest : Script} {s t : State} (h : exception c e rest s = .next t) :
    1 ≤ e ∧ e < s.cfg.ncorex ∧
    (((s.ready && coreRuns s c) = false ∧ t = s) ∨
     (s.ready = true ∧ coreRuns s c = true ∧ s.active.get c = none ∧
      enterHandler c e { s with streams := s.streams.set c ⟨rest, (s.streams.get c).names⟩ } = .next t)) := by
  unfold exception at h
  split at h
  · cases h
  · rename_i he
    have he' : 1 ≤ e ∧ e < s.cfg.ncorex := by simpa [Nat.one_le_iff_ne_zero] using he
    refine ⟨he'.1, he'.2, ?_⟩
    split at h
    · rename_i hr
      exact .inl ⟨by simpa only [Bool.not_eq_true'] using hr, by simpa using h⟩
    · rename_i hr
      split at h
      · cases h
      · rename_i ha
        have hr' : s.ready = true ∧ coreRuns s c = true := by simpa using hr
        exact .inr ⟨hr'.1, hr'.2, by simpa using ha, h⟩

/-- `HRET c` either is not enabled and changes nothing, or leaves the handler (R267). -/
theorem hret_next {c : Port} {s t : State} (h : hret c s = .next t) :
    (hretEnabled s c = false ∧ t = s) ∨ (hretEnabled s c = true ∧ t = leaveHandler c s) := by
  unfold hret at h
  split at h
  · exact .inr ⟨‹_›, by simpa [eq_comm] using h⟩
  · rename_i he
    exact .inl ⟨by simpa using he, by simpa using h⟩

@[simp] theorem trap_eq (c : Port) (s : State) : trap c s = .next s := by
  unfold trap hold
  split <;> rfl

/-- `EDGE n` either is held, or latches the condition of an existing line (R260). -/
theorem edge_next {n : Nat} {s t : State} (h : edge n s = .next t) :
    t = s ∨ (s.ready = true ∧ n < nirq s.cfg ∧
      t = { s with cond := s.cond ||| (1#32 <<< n), hist := s.hist ++ [.edge n] }) := by
  unfold edge at h
  split at h
  · rename_i hr
    have hr' : s.ready = true ∧ n < nirq s.cfg := by simpa using hr
    exact .inr ⟨hr'.1, hr'.2, by simpa [eq_comm] using h⟩
  · exact .inl (by simpa using h)

/-- `WAIT_RESUME p` either is held, or consumes the event and unparks the core (R127). -/
theorem waitResume_next {p : Port} {s t : State} (h : waitResume p s = .next t) :
    (waitResumeEnabled s p = false ∧ t = s) ∨
    (waitResumeEnabled s p = true ∧
      t = { s with evt := s.evt.set p false, parked := s.parked.set p false }) := by
  unfold waitResume at h
  split at h
  · exact .inr ⟨‹_›, by simpa [eq_comm] using h⟩
  · rename_i he
    exact .inl ⟨by simpa using he, by simpa using h⟩

/-- `READY_UP` (R303). -/
theorem readyUp_next {s t : State} (h : readyUp s = .next t) :
    (s.ready = true ∧ t = s) ∨ (s.ready = false ∧ t = { s with ready := true }) := by
  unfold readyUp at h
  split at h
  · exact .inl ⟨‹_›, by simpa using h⟩
  · rename_i he
    exact .inr ⟨by simpa using he, by simpa [eq_comm] using h⟩

/-- A step of a well-formed launch runs the next event, or nothing is scheduled (R14). -/
theorem step_next {s t : State} (h : step s = .next t) :
    s.cfg.wf = true ∧ ((s.schedule = [] ∧ t = s) ∨
      ∃ e later, s.schedule = e :: later ∧ runEvent e { s with schedule := later } = .next t) := by
  unfold step at h
  split at h
  · cases h
  · rename_i hc
    refine ⟨by simp [Config.wf, hc], ?_⟩
    split at h
    · exact .inl ⟨‹_›, by simpa [eq_comm] using h⟩
    · exact .inr ⟨_, _, ‹_›, h⟩

/-- A scheduled event of a well-formed launch is the step (R14). -/
theorem step_event {s : State} {e : Event} {later : List Event} (hw : configProblem s.cfg = none)
    (hs : s.schedule = e :: later) : step s = runEvent e { s with schedule := later } := by
  simp [step, hw, hs]

end Sys2Proof.Machine
end

