-- ==== Sys2Proof/Laws/Transactions.lean ====
section
/-! SUPPORT. One lemma per transaction: what holds before it and the state after it, when it answers a next state. -/

namespace Sys2Proof.Machine

theorem execRdCpuid_next {s t : State} (h : execRdCpuid s = .next t) :
    t = { s with rdata := some (cpuidWord s.port) } := by
  simpa using (checked_next h).2.2

theorem execRdSt_next {s t : State} (h : execRdSt s = .next t) :
    t = { s with rdata := some (statusWord s s.port) } := by
  simpa using (checked_next h).2.2

theorem execWrTx_next {d : Word} {s t : State} (h : execWrTx d s = .next t) :
    (s.port = .p0 → s.bsq.state.busy = false) ∧ s.full.get s.port = false ∧
      t = { s.push s.port d with rdata := none } := by
  obtain ⟨-, ha, ho⟩ := checked_next h
  refine ⟨fun hp => admissionProblem_lockout ha hp rfl, ?_⟩
  split at ho
  · cases ho
  · rename_i hf
    exact ⟨by simpa using hf, by simpa using ho⟩

theorem execRdRx_next {s t : State} (h : execRdRx s = .next t) :
    (s.port = .p0 → s.bsq.state.busy = false) ∧ s.full.get s.port.other = true ∧
      (s.x.get (slotOf s.port.other)).written = true ∧
      t = { s.pop s.port.other (s.x.get (slotOf s.port.other)).val with
            rdata := some (s.x.get (slotOf s.port.other)).val } := by
  obtain ⟨-, ha, ho⟩ := checked_next h
  refine ⟨fun hp => admissionProblem_lockout ha hp rfl, ?_⟩
  split at ho
  · rename_i hf
    obtain ⟨hw, ho⟩ := readReg_next ho
    exact ⟨hf, hw, by simpa using ho⟩
  · cases ho

theorem execWrWake_next {d : Word} {s t : State} (h : execWrWake d s = .next t) :
    (s.port = .p0 → s.bsq.state.busy = false) ∧ t = { s.wake (.core s.port) with rdata := none } := by
  obtain ⟨-, ha, ho⟩ := checked_next h
  exact ⟨fun hp => admissionProblem_lockout ha hp rfl, by simpa using ho⟩

theorem execWrWait_next {d : Word} {s t : State} (h : execWrWait d s = .next t) :
    (s.port = .p0 → s.bsq.state.busy = false) ∧ s.active.get s.port = none ∧
      ((s.evt.get s.port = true ∧ t = { s with evt := s.evt.set s.port false, rdata := none }) ∨
       (s.evt.get s.port = false ∧ t = { s with parked := s.parked.set s.port true, rdata := none })) := by
  obtain ⟨-, ha, ho⟩ := checked_next h
  refine ⟨fun hp => admissionProblem_lockout ha hp rfl, ?_⟩
  split at ho
  · cases ho
  · rename_i hact
    refine ⟨by simpa using hact, ?_⟩
    split at ho
    · rename_i he
      exact .inl ⟨he, by simpa using ho⟩
    · rename_i he
      exact .inr ⟨by simpa using he, by simpa using ho⟩

theorem readSeqReg_next {i : Instr} {r : RegName} {s t : State} (h : readSeqReg i r s = .next t) :
    (s.x.get r).written = true ∧ t = { s with rdata := some (s.x.get r).val } := by
  obtain ⟨hw, ho⟩ := readReg_next (checked_next h).2.2
  exact ⟨hw, by simpa using ho⟩

theorem writeSeqReg_next {i : Instr} {r : RegName} {d : Word} {s t : State} (h : writeSeqReg i r d s = .next t) :
    s.bsq.state = .idle ∧ t = { s.writeReg r d with rdata := none } := by
  have ho := (checked_next h).2.2
  split at ho
  · cases ho
  · rename_i hi
    exact ⟨by simpa using hi, by simpa using ho⟩

theorem readLaunchReg_next {i : Instr} {r : RegName} {s t : State} (h : readLaunchReg i r s = .next t) :
    s.c1Running = true ∧ (s.x.get r).written = true ∧ t = { s with rdata := some (s.x.get r).val } := by
  have ho := (checked_next h).2.2
  split at ho
  · rename_i hr
    obtain ⟨hw, ho⟩ := readReg_next ho
    exact ⟨hr, hw, by simpa using ho⟩
  · cases ho

theorem execWrBsqCtrl_next {go : Bool} {s t : State} (h : execWrBsqCtrl go s = .next t) :
    (go = false ∧ t = { s with rdata := none }) ∨
    (go = true ∧ s.bsq.state = .idle ∧ s.x.bsqVtor = ⟨s.cfg.vtBase, true⟩ ∧ s.x.bsqSp.written = true ∧
      s.x.bsqEntry.written = true ∧ t = { s with bsq := startedSequencer s.bsq, rdata := none }) := by
  have ho := (checked_next h).2.2
  split at ho
  · rename_i hg
    exact .inl ⟨by simpa using hg, by simpa using ho⟩
  · rename_i hg
    split at ho
    · cases ho
    · rename_i hi
      obtain ⟨h2, ho⟩ := readReg_next ho
      obtain ⟨h3, ho⟩ := readReg_next ho
      obtain ⟨h4, ho⟩ := readReg_next ho
      split at ho
      · cases ho
      · rename_i hv
        have hv' : (s.x.get .bsqVtor).val = s.cfg.vtBase := by simpa using hv
        refine .inr ⟨by simpa using hg, by simpa using hi, ?_, h3, h4, by simpa using ho⟩
        show s.x.get .bsqVtor = _
        rw [← hv', ← h2]

theorem execRdBsqSt_next {s t : State} (h : execRdBsqSt s = .next t) :
    t = { s with rdata := some (bsqStatusWord s.bsq) } := by
  simpa using (checked_next h).2.2

theorem execRdBsqResends_next {s t : State} (h : execRdBsqResends s = .next t) :
    t = { s with rdata := some s.bsq.resends } := by
  simpa using (checked_next h).2.2

theorem execRdC1St_next {s t : State} (h : execRdC1St s = .next t) :
    t = { s with rdata := some (c1StatusWord s) } := by
  simpa using (checked_next h).2.2

theorem execRdVdt_next {idx : Nat} {s t : State} (h : execRdVdt idx s = .next t) :
    t = { s with rdata := some (vdt s.cfg idx) } := by
  simpa using (checked_next h).2.2

theorem execRdIrqEn_next {s t : State} (h : execRdIrqEn s = .next t) :
    t = { s with rdata := some (s.en.get s.port) } := by
  simpa using (checked_next h).2.2

theorem execWrIrqEn_next {d : Word} {s t : State} (h : execWrIrqEn d s = .next t) :
    t = { s.writeEnable (d &&& maskIrq s.cfg) with rdata := none } := by
  simpa using (checked_next h).2.2

theorem execWrIrqEnSet_next {d : Word} {s t : State} (h : execWrIrqEnSet d s = .next t) :
    t = { s.writeEnable ((s.en.get s.port ||| d) &&& maskIrq s.cfg) with rdata := none } := by
  simpa using (checked_next h).2.2

theorem execWrIrqEnClr_next {d : Word} {s t : State} (h : execWrIrqEnClr d s = .next t) :
    t = { s.writeEnable (s.en.get s.port &&& ~~~d) with rdata := none } := by
  simpa using (checked_next h).2.2

theorem execWrIrqEnXor_next {d : Word} {s t : State} (h : execWrIrqEnXor d s = .next t) :
    t = { s.writeEnable ((s.en.get s.port ^^^ d) &&& maskIrq s.cfg) with rdata := none } := by
  simpa using (checked_next h).2.2

theorem execRdIrqSt_next {s t : State} (h : execRdIrqSt s = .next t) : t = { s with rdata := some s.cond } := by
  simpa using (checked_next h).2.2

theorem execWrIrqSt_next {d : Word} {s t : State} (h : execWrIrqSt d s = .next t) :
    t = { s with cond := s.cond &&& ~~~d, rdata := none } := by
  simpa using (checked_next h).2.2

/-- Everything a transaction can do to the state (R121 to R126, R141 to R149, R161 to R164, R190, R194 to R200): it
only returns a word, or it is one of the ten effects listed, each with what it requires. -/
theorem exec_next {i : Instr} {s t : State} (h : exec i s = .next t) :
    (∃ v, t = { s with rdata := v }) ∨
    (∃ d, i = .wrTx d ∧ (s.port = .p0 → s.bsq.state.busy = false) ∧ s.full.get s.port = false ∧
      t = { s.push s.port d with rdata := none }) ∨
    (∃ v, i = .rdRx ∧ (s.port = .p0 → s.bsq.state.busy = false) ∧ s.full.get s.port.other = true ∧
      s.x.get (slotOf s.port.other) = ⟨v, true⟩ ∧ t = { s.pop s.port.other v with rdata := some v }) ∨
    (∃ d, i = .wrWake d ∧ t = { s.wake (.core s.port) with rdata := none }) ∨
    (∃ d, i = .wrWait d ∧ s.active.get s.port = none ∧ s.evt.get s.port = true ∧
      t = { s with evt := s.evt.set s.port false, rdata := none }) ∨
    (∃ d, i = .wrWait d ∧ s.active.get s.port = none ∧ s.evt.get s.port = false ∧
      t = { s with parked := s.parked.set s.port true, rdata := none }) ∨
    (∃ r d, (r = .bsqVtor ∨ r = .bsqSp ∨ r = .bsqEntry) ∧ s.bsq.state = .idle ∧
      t = { s.writeReg r d with rdata := none }) ∨
    (i = .wrBsqCtrl true ∧ s.bsq.state = .idle ∧ s.x.bsqVtor = ⟨s.cfg.vtBase, true⟩ ∧ s.x.bsqSp.written = true ∧
      s.x.bsqEntry.written = true ∧ t = { s with bsq := startedSequencer s.bsq, rdata := none }) ∨
    (∃ v, (v &&& ~~~maskIrq s.cfg = 0#32 ∨ v &&& ~~~(s.en.get s.port) = 0#32) ∧
      t = { s.writeEnable v with rdata := none }) ∨
    (∃ d, i = .wrIrqSt d ∧ t = { s with cond := s.cond &&& ~~~d, rdata := none }) := by
  have mask (a m : Word) : a &&& m &&& ~~~m = 0#32 := by
    apply BitVec.eq_of_getLsbD_eq
    intro j hj
    cases h1 : m.getLsbD j <;> simp [h1]
  have sub (a b : Word) : a &&& ~~~b &&& ~~~a = 0#32 := by
    apply BitVec.eq_of_getLsbD_eq
    intro j hj
    cases h1 : a.getLsbD j <;> simp [h1]
  cases i with
  | rdCpuid => exact .inl ⟨_, execRdCpuid_next h⟩
  | rdSt => exact .inl ⟨_, execRdSt_next h⟩
  | wrTx d => exact .inr (.inl ⟨d, rfl, execWrTx_next h⟩)
  | rdRx =>
    obtain ⟨hb, hf, hw, ht⟩ := execRdRx_next h
    exact .inr (.inr (.inl ⟨_, rfl, hb, hf, by rw [← hw], ht⟩))
  | wrWake d => exact .inr (.inr (.inr (.inl ⟨d, rfl, (execWrWake_next h).2⟩)))
  | wrWait d =>
    obtain ⟨-, ha, ⟨he, ht⟩ | ⟨he, ht⟩⟩ := execWrWait_next h
    · exact .inr (.inr (.inr (.inr (.inl ⟨d, rfl, ha, he, ht⟩))))
    · exact .inr (.inr (.inr (.inr (.inr (.inl ⟨d, rfl, ha, he, ht⟩)))))
  | rdBsqVtor => exact .inl ⟨_, (readSeqReg_next h).2⟩
  | wrBsqVtor d =>
    exact .inr (.inr (.inr (.inr (.inr (.inr (.inl ⟨.bsqVtor, d, by simp, writeSeqReg_next h⟩))))))
  | rdBsqSp => exact .inl ⟨_, (readSeqReg_next h).2⟩
  | wrBsqSp d =>
    exact .inr (.inr (.inr (.inr (.inr (.inr (.inl ⟨.bsqSp, d, by simp, writeSeqReg_next h⟩))))))
  | rdBsqEntry => exact .inl ⟨_, (readSeqReg_next h).2⟩
  | wrBsqEntry d =>
    exact .inr (.inr (.inr (.inr (.inr (.inr (.inl ⟨.bsqEntry, d, by simp, writeSeqReg_next h⟩))))))
  | wrBsqCtrl go =>
    obtain ⟨-, ht⟩ | ⟨hg, hr⟩ := execWrBsqCtrl_next h
    · exact .inl ⟨_, ht⟩
    · exact .inr (.inr (.inr (.inr (.inr (.inr (.inr (.inl ⟨by rw [hg], hr⟩)))))))
  | rdBsqSt => exact .inl ⟨_, execRdBsqSt_next h⟩
  | rdBsqResends => exact .inl ⟨_, execRdBsqResends_next h⟩
  | rdIrqEn => exact .inl ⟨_, execRdIrqEn_next h⟩
  | wrIrqEn d =>
    exact .inr (.inr (.inr (.inr (.inr (.inr (.inr (.inr (.inl ⟨_, .inl (mask _ _), execWrIrqEn_next h⟩))))))))
  | wrIrqEnSet d =>
    exact .inr (.inr (.inr (.inr (.inr (.inr (.inr (.inr (.inl ⟨_, .inl (mask _ _), execWrIrqEnSet_next h⟩))))))))
  | wrIrqEnClr d =>
    exact .inr (.inr (.inr (.inr (.inr (.inr (.inr (.inr (.inl ⟨_, .inr (sub _ _), execWrIrqEnClr_next h⟩))))))))
  | wrIrqEnXor d =>
    exact .inr (.inr (.inr (.inr (.inr (.inr (.inr (.inr (.inl ⟨_, .inl (mask _ _), execWrIrqEnXor_next h⟩))))))))
  | rdIrqSt => exact .inl ⟨_, execRdIrqSt_next h⟩
  | wrIrqSt d =>
    exact .inr (.inr (.inr (.inr (.inr (.inr (.inr (.inr (.inr ⟨d, rfl, execWrIrqSt_next h⟩))))))))
  | rdC1St => exact .inl ⟨_, execRdC1St_next h⟩
  | rdC1Vtor => exact .inl ⟨_, (readLaunchReg_next (i := .rdC1Vtor) (r := .c1Vtor) h).2.2⟩
  | rdC1Sp => exact .inl ⟨_, (readLaunchReg_next (i := .rdC1Sp) (r := .c1Sp) h).2.2⟩
  | rdC1Pc => exact .inl ⟨_, (readLaunchReg_next (i := .rdC1Pc) (r := .c1Pc) h).2.2⟩
  | rdVdt idx => exact .inl ⟨_, execRdVdt_next h⟩

end Sys2Proof.Machine
end

