-- ==== Sys2Proof/Laws/Agents.lean ====
section
/-! SUPPORT. One lemma per agent: everything the sequencer, the responder, the simulated peer and a core's stream can
do when they answer a next state. -/

namespace Sys2Proof.Machine

/-- The command word a step of the sequencer works with (R150). -/
def IsCommand (s : State) (w : Word) : Prop :=
  (s.bsq.k.toNat ≤ 1 ∧ w = cmdProbe) ∨ (s.bsq.k.toNat = 2 ∧ w = cmdStart) ∨
    (s.bsq.k.toNat = 3 ∧ s.x.bsqVtor = ⟨w, true⟩) ∨ (s.bsq.k.toNat = 4 ∧ s.x.bsqSp = ⟨w, true⟩) ∨
    (s.bsq.k.toNat = 5 ∧ s.x.bsqEntry = ⟨w, true⟩)

/-- A step that needs the command word is held beyond step 5, or goes on with a word; at steps 3 to 5 with that of a
written register (R150). -/
theorem withCommand_next {s t : State} {cont : Word → Result} (h : withCommand s cont = .next t) :
    (6 ≤ s.bsq.k.toNat ∧ t = s) ∨
    (s.bsq.k.toNat ≤ 5 ∧ ∃ w, cont w = .next t ∧ IsCommand s w) := by
  unfold withCommand at h
  split at h
  · rename_i hk
    exact .inr ⟨by omega, _, h, .inl ⟨by omega, rfl⟩⟩
  · rename_i hk
    exact .inr ⟨by omega, _, h, .inl ⟨by omega, rfl⟩⟩
  · rename_i hk
    exact .inr ⟨by omega, _, h, .inr (.inl ⟨hk, rfl⟩)⟩
  · rename_i hk
    obtain ⟨hw, h⟩ := readReg_next h
    exact .inr ⟨by omega, _, h, .inr (.inr (.inl ⟨hk, by rw [← hw]; rfl⟩))⟩
  · rename_i hk
    obtain ⟨hw, h⟩ := readReg_next h
    exact .inr ⟨by omega, _, h, .inr (.inr (.inr (.inl ⟨hk, by rw [← hw]; rfl⟩)))⟩
  · rename_i hk
    obtain ⟨hw, h⟩ := readReg_next h
    exact .inr ⟨by omega, _, h, .inr (.inr (.inr (.inr ⟨hk, by rw [← hw]; rfl⟩)))⟩
  · rename_i h0 h1 h2 h3 h4 h5
    have h0 : s.bsq.k.toNat ≠ 0 := h0
    have h1 : s.bsq.k.toNat ≠ 1 := h1
    have h2 : s.bsq.k.toNat ≠ 2 := h2
    have h3 : s.bsq.k.toNat ≠ 3 := h3
    have h4 : s.bsq.k.toNat ≠ 4 := h4
    have h5 : s.bsq.k.toNat ≠ 5 := h5
    exact .inl ⟨by omega, by simpa using h⟩

/-- Everything a sequencer step can do (R152 to R158): nothing (a hold), or the effect of its phase. -/
theorem bsqStep_next {s t : State} (h : bsqStep s = .next t) :
    t = s ∨ (s.ready = true ∧ s.bsq.state.busy = true ∧
      ((s.bsq.phase = .drain ∧ s.full.c1 = true ∧ s.x.slot1.written = true ∧ t = s.pop .p1 s.x.slot1.val) ∨
       (s.bsq.phase = .drain ∧ s.full.c1 = false ∧ t = s.bsqPhase .wake) ∨
       (s.bsq.phase = .wake ∧ t = (s.wake .bsq).bsqPhase .send) ∨
       (s.bsq.phase = .send ∧ s.full.c0 = false ∧ s.bsq.k.toNat ≤ 5 ∧
         ∃ w, IsCommand s w ∧ t = (s.push .p0 w).bsqPhase .sendWake) ∨
       (s.bsq.phase = .sendWake ∧ t = (s.wake .bsq).bsqPhase .recv) ∨
       (s.bsq.phase = .recv ∧ s.full.c1 = true ∧ s.x.slot1.written = true ∧ s.bsq.k.toNat ≤ 5 ∧
         ∃ w, IsCommand s w ∧
           ((s.x.slot1.val = ackFor s.cfg s.bsq.k w ∧
              t = { s.pop .p1 s.x.slot1.val with bsq := advancedSequencer s.bsq }) ∨
            (s.x.slot1.val ≠ ackFor s.cfg s.bsq.k w ∧
              t = { s.pop .p1 s.x.slot1.val with bsq := resendingSequencer s.bsq }.log (.resend s.bsq.k)))))) := by
  unfold bsqStep at h
  split at h
  swap
  · exact .inl (by simpa using h)
  rename_i hr
  have hr' : s.ready = true ∧ s.bsq.state.busy = true := by simpa using hr
  split at h
  · rename_i hp
    unfold bsqDrain at h
    split at h
    · rename_i hf
      obtain ⟨hw, h⟩ := readReg_next h
      exact .inr ⟨hr'.1, hr'.2, .inl ⟨hp, hf, hw, by cases h; rfl⟩⟩
    · rename_i hf
      exact .inr ⟨hr'.1, hr'.2, .inr (.inl ⟨hp, by simpa using hf, by cases h; rfl⟩)⟩
  · rename_i hp
    exact .inr ⟨hr'.1, hr'.2, .inr (.inr (.inl ⟨hp, by cases h; rfl⟩))⟩
  · rename_i hp
    unfold bsqSend at h
    split at h
    · exact .inl (by simpa using h)
    · rename_i hf
      obtain ⟨-, ht⟩ | ⟨hk, w, ht, hw⟩ := withCommand_next h
      · exact .inl ht
      · exact .inr ⟨hr'.1, hr'.2, .inr (.inr (.inr (.inl ⟨hp, by simpa using hf, hk, w, hw, by cases ht; rfl⟩)))⟩
  · rename_i hp
    exact .inr ⟨hr'.1, hr'.2, .inr (.inr (.inr (.inr (.inl ⟨hp, by cases h; rfl⟩))))⟩
  · rename_i hp
    unfold bsqRecv at h
    split at h
    · rename_i hf
      obtain ⟨hs, h⟩ := readReg_next h
      obtain ⟨-, ht⟩ | ⟨hk, w, ht, hw⟩ := withCommand_next h
      · exact .inl ht
      · refine .inr ⟨hr'.1, hr'.2, .inr (.inr (.inr (.inr (.inr ⟨hp, hf, hs, hk, w, hw, ?_⟩))))⟩
        split at ht
        · rename_i ha
          exact .inl ⟨ha, by cases ht; rfl⟩
        · rename_i ha
          exact .inr ⟨ha, by cases ht; rfl⟩
    · exact .inl (by simpa using h)

/-- Keeping a received word changes one of core 1's three registers at the steps 3 to 5, and nothing else (R171). -/
theorem capture_eq (s : State) (w : Word) :
    s.capture w = { s with
      x := { s.x with
        c1Vtor := if s.pbl.k = 3#3 then ⟨w, true⟩ else s.x.c1Vtor
        c1Sp := if s.pbl.k = 4#3 then ⟨w, true⟩ else s.x.c1Sp
        c1Pc := if s.pbl.k = 5#3 then ⟨w, true⟩ else s.x.c1Pc } } := by
  have h : ∀ k : BitVec 3, k = 0#3 ∨ k = 1#3 ∨ k = 2#3 ∨ k = 3#3 ∨ k = 4#3 ∨ k = 5#3 ∨ k = 6#3 ∨ k = 7#3 := by decide
  unfold State.capture captureReg
  rcases h s.pbl.k with hk | hk | hk | hk | hk | hk | hk | hk <;> rw [hk] <;> rfl

/-- Everything a responder step can do (R170 to R176): nothing (a hold), or the effect of its phase. -/
theorem pblStep_next {s t : State} (h : pblStep s = .next t) :
    t = s ∨ (s.ready = true ∧ s.c1Running = false ∧ s.cfg.peer = .pbl ∧
      ((s.pbl.phase = .recv ∧ s.full.c0 = true ∧ s.x.slot0.written = true ∧
         (expectedWord s.pbl.k = none ∨ expectedWord s.pbl.k = some s.x.slot0.val) ∧
         t = { (s.pop .p0 s.x.slot0.val).capture s.x.slot0.val with
               pbl := { s.pbl with w := s.x.slot0.val, phase := .ack } }) ∨
       (s.pbl.phase = .ack ∧ s.full.c1 = false ∧
         t = { s.push .p1 (ackFor s.cfg s.pbl.k s.pbl.w) with pbl := { s.pbl with phase := .ackWake } }) ∨
       (s.pbl.phase = .ackWake ∧
         t = { s.wake .pbl with
               pbl := { s.pbl with k := s.pbl.k + 1#3, phase := if s.pbl.k + 1#3 = 6#3 then .launch else .recv } }) ∨
       (s.pbl.phase = .launch ∧ s.x.c1Vtor = ⟨s.cfg.vtBase, true⟩ ∧ s.x.c1Sp.written = true ∧
         s.x.c1Pc.written = true ∧
         t = { s with
               c1Running := true
               pc := s.pc.set .p1 s.x.c1Pc.val
               pbl := { s.pbl with phase := .recv }
               streams := s.streams.set .p1 ⟨progFor s.cfg s.x.c1Pc.val, []⟩
               hist := s.hist ++ [.launch s.x.c1Vtor.val s.x.c1Sp.val s.x.c1Pc.val] }))) := by
  unfold pblStep at h
  split at h
  swap
  · exact .inl (by simpa using h)
  rename_i hr
  have hr' : (s.ready = true ∧ s.c1Running = false) ∧ s.cfg.peer = .pbl := by simpa using hr
  obtain ⟨⟨hready, hrun⟩, hpeer⟩ := hr'
  split at h
  · rename_i hp
    unfold pblRecv at h
    split at h
    · rename_i hf
      obtain ⟨hw, h⟩ := readReg_next h
      split at h
      · cases h
      · rename_i he
        refine .inr ⟨hready, hrun, hpeer, .inl ⟨hp, hf, hw, ?_, by cases h; rfl⟩⟩
        cases hx : expectedWord s.pbl.k with
        | none => exact .inl rfl
        | some v =>
          rw [hx] at he
          exact .inr (by simpa [WordRegs.get] using he)
    · exact .inl (by simpa using h)
  · rename_i hp
    unfold pblAck at h
    split at h
    · exact .inl (by simpa using h)
    · rename_i hf
      exact .inr ⟨hready, hrun, hpeer, .inr (.inl ⟨hp, by simpa using hf, by cases h; rfl⟩)⟩
  · rename_i hp
    exact .inr ⟨hready, hrun, hpeer, .inr (.inr (.inl ⟨hp, by cases h; rfl⟩))⟩
  · rename_i hp
    unfold pblLaunch at h
    obtain ⟨hw, h⟩ := readReg_next h
    split at h
    · cases h
    · rename_i hv
      obtain ⟨hsp, h⟩ := readReg_next h
      obtain ⟨hpc, h⟩ := readReg_next h
      have hv' : s.x.c1Vtor.val = s.cfg.vtBase := by simpa [WordRegs.get] using hv
      exact .inr ⟨hready, hrun, hpeer, .inr (.inr (.inr ⟨hp, by rw [← hv', ← hw]; rfl, hsp, hpc, by cases h; rfl⟩))⟩

/-- A transaction word that answers a next state was decoded, and its instruction answers it on that port. -/
theorem issueWord_next {c : Port} {T : TWord} {s t : State} (h : issueWord c T s = .next t) :
    ∃ i, decode T = .ok i ∧ exec i { s with port := c } = .next t := by
  unfold issueWord at h
  split at h
  · cases h
  · exact ⟨_, ‹_›, h⟩

theorem afterTransaction_next {c : Port} {dst : Option Name} {rest : Script} {names : List (Name × Word)}
    {r : Result} {t : State} (h : afterTransaction c dst rest names r = .next t) :
    ∃ u, r = .next u ∧ t = u.advance c rest (bindReturned dst u.rdata names) := by
  unfold afterTransaction at h
  split at h
  · exact ⟨_, rfl, by cases h; rfl⟩
  · cases h
  · cases h

/-- Everything a core's own step can do (R13, R101): nothing, a transaction on its port, a core exception, a report,
or one control form of its script. -/
theorem coreStep_next {c : Port} {s t : State} (h : coreStep c s = .next t) :
    t = s ∨ (streamMayStep s c = true ∧
      ((∃ opcode d dst rest v i u, (s.streams.get c).script = .line (.access opcode d dst) rest ∧
          evalOperand (s.streams.get c).names d = some v ∧ decode (wordOf opcode v) = .ok i ∧
          exec i { s with port := c } = .next u ∧
          t = u.advance c rest (bindReturned dst u.rdata (s.streams.get c).names)) ∨
       (∃ e rest, exception c e rest s = .next t) ∨
       (∃ v rest names, t = (s.report c v).advance c rest names) ∨
       (∃ rest names, t = s.advance c rest names))) := by
  unfold coreStep at h
  split at h
  swap
  · exact .inl (by simpa using h)
  rename_i hm
  split at h
  · exact .inl (by simpa using h)
  · rename_i l rest hs
    unfold lineStep at h
    split at h
    · split at h
      · cases h
      · rename_i hv
        obtain ⟨u, hu, ht⟩ := afterTransaction_next h
        obtain ⟨i, hd, hi⟩ := issueWord_next hu
        exact .inr ⟨hm, .inl ⟨_, _, _, _, _, i, u, hs, hv, hd, hi, ht⟩⟩
    · exact .inr ⟨hm, .inr (.inl ⟨_, _, h⟩)⟩
    · split at h
      · cases h
      · exact .inr ⟨hm, .inr (.inr (.inl ⟨_, _, _, by cases h; rfl⟩))⟩
  · split at h
    · exact .inr ⟨hm, .inr (.inr (.inr ⟨_, _, by cases h; rfl⟩))⟩
    · cases h

/-- Everything the simulated peer can do (R177): nothing, or one of its five transactions on port 1 before launch. -/
theorem envStep_next {op : EnvOp} {s t : State} (h : envStep op s = .next t) :
    t = s ∨ (s.c1Running = false ∧ s.cfg.peer = .env ∧ exec op.instr { s with port := .p1 } = .next t) := by
  unfold envStep at h
  split at h
  · rename_i hr
    have hr' : s.c1Running = false ∧ s.cfg.peer = .env := by simpa using hr
    exact .inr ⟨hr'.1, hr'.2, h⟩
  · exact .inl (by simpa using h)

end Sys2Proof.Machine
end

