-- ==== Sys2Proof/Laws/Config.lean ====
section
/-! SUPPORT. What a well-formed launch configuration guarantees, one lemma per condition (42_dispatch_table.md R192). -/

namespace Sys2Proof

open Machine

theorem Config.configProblem_none {c : Config} (h : c.wf = true) : configProblem c = none := by
  simpa [Config.wf] using h

/-- The conditions of R192 that a well-formed configuration meets, in the order they are checked. -/
theorem Config.wf_conditions {c : Config} (h : c.wf = true) :
    (2 ≤ c.ncorex ∧ c.ncorex ≤ c.nvec ∧ c.nvec ≤ 64) ∧ c.nvec - c.ncorex ≤ 32 ∧
    (c.vtBase.toNat % 4 = 0 ∧ c.vtBase.toNat + 4 * c.nvec ≤ 2 ^ 32) ∧ c.defaultHandler ≠ 0#32 ∧
    (∀ e ∈ c.handlers, 0 < e.1 ∧ e.1 < c.nvec) ∧ (∀ e ∈ c.handlers, e.2 ≠ 0#32) ∧
    (∀ i < c.nvec, i ≠ 0 → (hkind c (vdt c i)).isSome = true) ∧ hkind c c.defaultHandler = some .trapLoop := by
  have h := Config.configProblem_none h
  unfold configProblem at h
  split at h
  · cases h
  rename_i h1
  split at h
  · cases h
  rename_i h2
  split at h
  · cases h
  rename_i h3
  split at h
  · cases h
  rename_i h4
  split at h
  · cases h
  rename_i h5
  split at h
  · cases h
  rename_i h6
  split at h
  · cases h
  rename_i h7
  split at h
  · cases h
  rename_i h8
  refine ⟨?_, by simpa using h2, ?_, by simpa using h4, ?_, ?_, ?_, by simpa using h8⟩
  · simpa only [Bool.not_eq_true', Bool.not_eq_false, Bool.and_eq_true, decide_eq_true_eq, and_assoc] using h1
  · simpa using h3
  · intro e he
    simp only [Bool.not_eq_true', Bool.not_eq_false, List.all_eq_true] at h5
    simpa using h5 e he
  · intro e he hz
    apply h6
    simp only [List.any_eq_true]
    exact ⟨e, he, by simpa using hz⟩
  · intro i hi h0
    simp only [Bool.not_eq_true', Bool.not_eq_false, List.all_eq_true] at h7
    simpa [h0] using h7 i (by simpa using hi)

/-- The external lines fit the 32-bit registers (R192). -/
theorem Config.nirq_le {c : Config} (h : c.wf = true) : nirq c ≤ 32 := (Config.wf_conditions h).2.1

/-- Bit `n` of `MASK_IRQ` is set exactly for the lines that exist (R12). -/
theorem maskIrq_bit {c : Config} (h : c.wf = true) (n : Nat) : (maskIrq c).getLsbD n = decide (n < nirq c) := by
  have hn := Config.nirq_le h
  simp only [maskIrq]
  rw [BitVec.getLsbD_ofNat, Nat.testBit_two_pow_sub_one]
  by_cases h1 : n < 32 <;> by_cases h2 : n < nirq c <;> simp [h1, h2]
  omega

/-- The value a lookup answers stands in the list with its key. -/
theorem lookupKey_mem {α β : Type} [DecidableEq α] {l : List (α × β)} {k : α} {v : β}
    (h : lookupKey l k = some v) : (k, v) ∈ l := by
  unfold lookupKey at h
  obtain ⟨e, he, rfl⟩ := Option.map_eq_some_iff.mp h
  have hk := List.find?_some he
  simp only [decide_eq_true_eq] at hk
  rw [← hk]
  exact List.mem_of_find?_eq_some he

/-- No entry but that of index 0 is the null reference (R191, R192). -/
theorem vdt_ne_null {c : Config} (h : c.wf = true) {i : Nat} (hi : i ≠ 0) : vdt c i ≠ 0#32 := by
  have hw := Config.wf_conditions h
  unfold vdt
  rw [if_neg hi]
  cases hl : lookupKey c.handlers i with
  | none => exact hw.2.2.2.1
  | some v => exact hw.2.2.2.2.2.1 _ (lookupKey_mem hl)

end Sys2Proof
end

