-- ==== Sys2Proof/Laws/Decode.lean ====
section
/-! SUPPORT. The bits and fields of a word put together from fields, and a word put together from its own fields. -/

namespace Sys2Proof

/-- The bits of a word given by its opcode byte and data. -/
theorem getLsbD_wordOf (b : BitVec 8) (d : Word) (i : Nat) :
    (wordOf b d).getLsbD i = if i < 32 then d.getLsbD i else b.getLsbD (i - 32) := by
  have h : (b ++ d).getLsbD i = _ := BitVec.getLsbD_append
  simpa [wordOf] using h

/-- The bits of a word given by its four fields. -/
theorem getLsbD_packWord (w s : Bool) (a : BitVec 6) (d : Word) (i : Nat) :
    (packWord w s a d).getLsbD i =
      if i < 32 then d.getLsbD i else if i < 38 then a.getLsbD (i - 32)
      else if i = 38 then s else if i = 39 then w else false := by
  have h1 : (((BitVec.ofBool w ++ BitVec.ofBool s) ++ a) ++ d).getLsbD i = _ := BitVec.getLsbD_append
  have h2 : ((BitVec.ofBool w ++ BitVec.ofBool s) ++ a).getLsbD (i - 32) = _ := BitVec.getLsbD_append
  have h3 : (BitVec.ofBool w ++ BitVec.ofBool s).getLsbD (i - 32 - 6) = _ := BitVec.getLsbD_append
  show (((BitVec.ofBool w ++ BitVec.ofBool s) ++ a) ++ d).getLsbD i = _
  rw [h1, h2, h3]
  by_cases c1 : i < 32
  · simp [c1]
  · by_cases c2 : i < 38
    · simp [c1, c2, show i - 32 < 6 by omega]
    · by_cases c3 : i = 38
      · subst c3; simp
      · by_cases c4 : i = 39
        · subst c4; simp
        · simp [c1, c2, c3, c4, show ¬ (i - 32 < 6) by omega, show ¬ (i - 32 - 6 < 1) by omega]
          intros; omega

@[simp] theorem fieldW_wordOf (b : BitVec 8) (d : Word) : fieldW (wordOf b d) = b.getLsbD 7 := by
  rw [fieldW, getLsbD_wordOf]
  simp

@[simp] theorem fieldS_wordOf (b : BitVec 8) (d : Word) : fieldS (wordOf b d) = b.getLsbD 6 := by
  rw [fieldS, getLsbD_wordOf]
  simp

@[simp] theorem fieldA_wordOf (b : BitVec 8) (d : Word) : fieldA (wordOf b d) = b.extractLsb' 0 6 := by
  apply BitVec.eq_of_getLsbD_eq
  intro i hi
  rw [fieldA, BitVec.getLsbD_extractLsb', BitVec.getLsbD_extractLsb', getLsbD_wordOf]
  simp

@[simp] theorem fieldD_wordOf (b : BitVec 8) (d : Word) : fieldD (wordOf b d) = d := by
  apply BitVec.eq_of_getLsbD_eq
  intro i hi
  rw [fieldD, BitVec.getLsbD_extractLsb', getLsbD_wordOf]
  simp [hi]

@[simp] theorem fieldW_packWord (w s : Bool) (a : BitVec 6) (d : Word) : fieldW (packWord w s a d) = w := by
  rw [fieldW, getLsbD_packWord]
  simp

@[simp] theorem fieldS_packWord (w s : Bool) (a : BitVec 6) (d : Word) : fieldS (packWord w s a d) = s := by
  rw [fieldS, getLsbD_packWord]
  simp

@[simp] theorem fieldA_packWord (w s : Bool) (a : BitVec 6) (d : Word) : fieldA (packWord w s a d) = a := by
  apply BitVec.eq_of_getLsbD_eq
  intro i hi
  rw [fieldA, BitVec.getLsbD_extractLsb', getLsbD_packWord]
  simp [hi, show 32 + i < 38 by omega]

@[simp] theorem fieldD_packWord (w s : Bool) (a : BitVec 6) (d : Word) : fieldD (packWord w s a d) = d := by
  apply BitVec.eq_of_getLsbD_eq
  intro i hi
  rw [fieldD, BitVec.getLsbD_extractLsb', getLsbD_packWord]
  simp [hi]

/-- A word is `{w, s, a, d}` of its own fields (R90, R94). -/
theorem packWord_fields (T : TWord) : packWord (fieldW T) (fieldS T) (fieldA T) (fieldD T) = T := by
  apply BitVec.eq_of_getLsbD_eq
  intro i hi
  rw [getLsbD_packWord, fieldD, fieldA, BitVec.getLsbD_extractLsb', BitVec.getLsbD_extractLsb']
  by_cases h1 : i < 32
  · simp [h1]
  · by_cases h2 : i < 38
    · simp [h1, h2, show i - 32 < 6 by omega, show 32 + (i - 32) = i by omega]
    · have h4 : i = 38 ∨ i = 39 := by omega
      rcases h4 with rfl | rfl <;> simp [fieldW, fieldS]

/-- Two words with the same fields are equal. -/
theorem eq_of_fields {T U : TWord} (hw : fieldW T = fieldW U) (hs : fieldS T = fieldS U) (ha : fieldA T = fieldA U)
    (hd : fieldD T = fieldD U) : T = U := by
  rw [← packWord_fields T, ← packWord_fields U, hw, hs, ha, hd]

/-- A word given by its opcode byte and data, as its four fields (R90). -/
theorem wordOf_eq_packWord (b : BitVec 8) (d : Word) :
    wordOf b d = packWord (b.getLsbD 7) (b.getLsbD 6) (b.extractLsb' 0 6) d := by
  apply eq_of_fields <;> simp

end Sys2Proof
end

