-- ==== Sys2Proof/Laws/Memory.lean ====
section
/-! SUPPORT. The memory the spec gives the machine is the table's image; it is in canonical form, at reset and always
(no step writes memory, R9, R45). -/

namespace Sys2Proof.Machine

theorem Memory.wf_of_pairwise : ∀ {m : Memory}, m.Pairwise (fun a b => a.1 < b.1) → Memory.wf m = true
  | [], _ => rfl
  | [_], _ => rfl
  | a :: b :: r, h => by
    have h' := List.pairwise_cons.mp h
    simp [Memory.wf, h'.1 b (by simp), Memory.wf_of_pairwise h'.2]

/-- The addresses of the table's image rise strictly. -/
theorem tableImage_rising (c : Config) : (tableImage c).Pairwise (fun a b => a.1 < b.1) := by
  unfold tableImage
  rw [List.pairwise_flatMap]
  constructor
  · intro i _
    rw [List.pairwise_map]
    refine List.Pairwise.imp ?_ (List.pairwise_lt_range (n := 4))
    intro a b h
    show c.vtBase.toNat + 4 * i + a < c.vtBase.toNat + 4 * i + b
    omega
  · refine List.Pairwise.imp ?_ (List.pairwise_lt_range (n := c.nvec))
    intro a b h x hx y hy
    simp only [List.mem_map, List.mem_range] at hx hy
    obtain ⟨j, hj, rfl⟩ := hx
    obtain ⟨k, hk, rfl⟩ := hy
    show c.vtBase.toNat + 4 * a + j < c.vtBase.toNat + 4 * b + k
    omega

/-- The image of any configuration's table is in canonical form. -/
theorem tableImage_wf (c : Config) : Memory.wf (tableImage c) = true :=
  Memory.wf_of_pairwise (tableImage_rising c)

/-- In a memory in canonical form, an entry is what its address reads as. -/
theorem Memory.byteAt_of_mem {m : Memory} (hp : m.Pairwise (fun a b => a.1 < b.1)) {a : Nat} {b : Byte}
    (h : (a, b) ∈ m) : m.byteAt a = some b := by
  induction m with
  | nil => cases h
  | cons e r ih =>
    have hp' := List.pairwise_cons.mp hp
    unfold Memory.byteAt lookupKey
    rcases List.mem_cons.mp h with rfl | hr
    · simp
    · have hlt := hp'.1 _ hr
      rw [List.find?_cons_of_neg (by simpa using Nat.ne_of_lt hlt)]
      exact ih hp'.2 hr

/-- Byte `j` of table entry `i` stands at `VT_BASE + 4*i + j` (R62, R65). -/
theorem byteAt_tableImage (c : Config) {i j : Nat} (hi : i < c.nvec) (hj : j < 4) :
    (tableImage c).byteAt (c.vtBase.toNat + 4 * i + j) = some (byteOf (vdt c i) j) := by
  apply Memory.byteAt_of_mem (tableImage_rising c)
  simp only [tableImage, List.mem_flatMap, List.mem_range, List.mem_map]
  exact ⟨i, hi, j, hj, rfl⟩

/-- The memory of the machine after reset is in canonical form. -/
theorem reset_memory_wf : Memory.wf (tableImage State.reset.cfg) = true := tableImage_wf _

end Sys2Proof.Machine
end

