-- ==== Sys2Proof/Laws/PerInstr.lean ====
section
/-! SUPPORT. Facts about instructions as syntax, stated once and proved per constructor. -/

namespace Sys2Proof.Laws

/-- Every transaction's word selects its own row of the opcode map: `T & mask == match` (30_encoding.md R93). -/
def SelectsRow.Statement (i : Instr) : Prop :=
  i.wf = true → ∃ r, opcodeRows[rowNumber i]? = some r ∧ r.selects (encode i) = true

/-- A word with free data selects the row of its opcode byte. -/
theorem dataRow_selects (m : String) (b : BitVec 8) (d : Word) : (dataRow m b).selects (wordOf b d) = true := by
  simp only [OpcodeRow.selects, dataRow, beq_iff_eq]
  apply BitVec.eq_of_getLsbD_eq
  intro i hi
  rw [BitVec.getLsbD_and, getLsbD_wordOf, getLsbD_wordOf]
  have h : ∀ j < 40, (0xFF00000000#40 : BitVec 40).getLsbD j = decide (32 ≤ j) := by decide
  rw [h i hi]
  by_cases h1 : i < 32
  · simp [h1]
  · simp [h1, show 32 ≤ i by omega]

theorem SelectsRow.rdCpuid : Statement .rdCpuid := fun _ => ⟨_, rfl, by decide⟩
theorem SelectsRow.rdSt : Statement .rdSt := fun _ => ⟨_, rfl, by decide⟩
theorem SelectsRow.wrTx (d : Word) : Statement (.wrTx d) := fun _ => ⟨_, rfl, dataRow_selects _ _ d⟩
theorem SelectsRow.rdRx : Statement .rdRx := fun _ => ⟨_, rfl, by decide⟩
theorem SelectsRow.wrWake (d : Word) : Statement (.wrWake d) := fun _ => ⟨_, rfl, dataRow_selects _ _ d⟩
theorem SelectsRow.wrWait (d : Word) : Statement (.wrWait d) := fun _ => ⟨_, rfl, dataRow_selects _ _ d⟩
theorem SelectsRow.rdBsqVtor : Statement .rdBsqVtor := fun _ => ⟨_, rfl, by decide⟩
theorem SelectsRow.wrBsqVtor (d : Word) : Statement (.wrBsqVtor d) := fun _ => ⟨_, rfl, dataRow_selects _ _ d⟩
theorem SelectsRow.rdBsqSp : Statement .rdBsqSp := fun _ => ⟨_, rfl, by decide⟩
theorem SelectsRow.wrBsqSp (d : Word) : Statement (.wrBsqSp d) := fun _ => ⟨_, rfl, dataRow_selects _ _ d⟩
theorem SelectsRow.rdBsqEntry : Statement .rdBsqEntry := fun _ => ⟨_, rfl, by decide⟩
theorem SelectsRow.wrBsqEntry (d : Word) : Statement (.wrBsqEntry d) := fun _ => ⟨_, rfl, dataRow_selects _ _ d⟩
theorem SelectsRow.wrBsqCtrl (go : Bool) : Statement (.wrBsqCtrl go) := fun _ => ⟨_, rfl, by cases go <;> decide⟩
theorem SelectsRow.rdBsqSt : Statement .rdBsqSt := fun _ => ⟨_, rfl, by decide⟩
theorem SelectsRow.rdBsqResends : Statement .rdBsqResends := fun _ => ⟨_, rfl, by decide⟩
theorem SelectsRow.rdIrqEn : Statement .rdIrqEn := fun _ => ⟨_, rfl, by decide⟩
theorem SelectsRow.wrIrqEn (d : Word) : Statement (.wrIrqEn d) := fun _ => ⟨_, rfl, dataRow_selects _ _ d⟩
theorem SelectsRow.wrIrqEnSet (d : Word) : Statement (.wrIrqEnSet d) := fun _ => ⟨_, rfl, dataRow_selects _ _ d⟩
theorem SelectsRow.wrIrqEnClr (d : Word) : Statement (.wrIrqEnClr d) := fun _ => ⟨_, rfl, dataRow_selects _ _ d⟩
theorem SelectsRow.wrIrqEnXor (d : Word) : Statement (.wrIrqEnXor d) := fun _ => ⟨_, rfl, dataRow_selects _ _ d⟩
theorem SelectsRow.rdIrqSt : Statement .rdIrqSt := fun _ => ⟨_, rfl, by decide⟩
theorem SelectsRow.wrIrqSt (d : Word) : Statement (.wrIrqSt d) := fun _ => ⟨_, rfl, dataRow_selects _ _ d⟩
theorem SelectsRow.rdC1St : Statement .rdC1St := fun _ => ⟨_, rfl, by decide⟩
theorem SelectsRow.rdC1Vtor : Statement .rdC1Vtor := fun _ => ⟨_, rfl, by decide⟩
theorem SelectsRow.rdC1Sp : Statement .rdC1Sp := fun _ => ⟨_, rfl, by decide⟩
theorem SelectsRow.rdC1Pc : Statement .rdC1Pc := fun _ => ⟨_, rfl, by decide⟩
theorem SelectsRow.rdVdt (idx : Nat) : Statement (.rdVdt idx) := fun h => by
  have hlt : idx < 64 := by simpa [Instr.wf] using h
  clear h
  exact ⟨_, rfl, by revert idx; decide⟩

end Sys2Proof.Laws
end

