-- ==== Sys2Proof/Laws/Poll.lean ====
section
/-! SUPPORT. What a poll can do (R220, R322): a quiet read changes nothing but the word returned, and a stream that
`pollHeld` takes as held goes on for ever under its own core's steps without changing the block. -/

namespace Sys2Proof.Machine

/-- A quiet read that completes changes only the word returned (R122, R148, R161, R190, R194, R199). -/
theorem exec_quietRead {i : Instr} {s t : State} (hq : isQuietRead i = true) (h : exec i s = .next t) :
    t = { s with rdata := t.rdata } := by
  obtain ⟨v, rfl⟩ : ∃ v, t = { s with rdata := v } := by
    cases i with
    | rdCpuid => exact ⟨_, execRdCpuid_next h⟩
    | rdSt => exact ⟨_, execRdSt_next h⟩
    | rdBsqVtor => exact ⟨_, (readSeqReg_next h).2⟩
    | rdBsqSp => exact ⟨_, (readSeqReg_next h).2⟩
    | rdBsqEntry => exact ⟨_, (readSeqReg_next h).2⟩
    | rdBsqSt => exact ⟨_, execRdBsqSt_next h⟩
    | rdBsqResends => exact ⟨_, execRdBsqResends_next h⟩
    | rdIrqEn => exact ⟨_, execRdIrqEn_next h⟩
    | rdIrqSt => exact ⟨_, execRdIrqSt_next h⟩
    | rdC1St => exact ⟨_, execRdC1St_next h⟩
    | rdC1Vtor => exact ⟨_, (readLaunchReg_next (i := .rdC1Vtor) (r := .c1Vtor) h).2.2⟩
    | rdC1Sp => exact ⟨_, (readLaunchReg_next (i := .rdC1Sp) (r := .c1Sp) h).2.2⟩
    | rdC1Pc => exact ⟨_, (readLaunchReg_next (i := .rdC1Pc) (r := .c1Pc) h).2.2⟩
    | rdVdt idx => exact ⟨_, execRdVdt_next h⟩
    | _ => cases hq
  rfl

/-- A word that `quietWord` answers is returned by a transaction that leaves the block as it is. -/
theorem quietWord_some {s : State} {c : Port} {T : TWord} {w : Word} (h : quietWord s c T = some w) :
    issueWord c T s = .next { s with port := c, rdata := some w } := by
  unfold quietWord at h
  unfold issueWord
  cases hd : decode T with
  | error why => simp [hd] at h
  | ok i =>
    simp only [hd] at h ⊢
    split at h
    · rename_i hq
      cases he : exec i { s with port := c } with
      | next t =>
        rw [he] at h
        rw [exec_quietRead hq he, show t.rdata = some w from h]
      | fault f => simp [he, returnedWord] at h
      | refused r => simp [he, returnedWord] at h
    · cases h

/-- The word a checked transaction returns is its own, where the checks pass. -/
theorem returnedWord_checked (i : Instr) (s : State) (own : Result) :
    returnedWord (checked i s own) =
      if rightsProblem s.cfg s.port i = none ∧ admissionProblem s i = none then returnedWord own else none := by
  unfold checked
  cases rightsProblem s.cfg s.port i <;> cases admissionProblem s i <;> simp [returnedWord]

@[simp] theorem returnedWord_answer (v : Word) (s : State) : returnedWord (answer v s) = some v := rfl

theorem returnedWord_readReg (s : State) (r : RegName) (k : Word → Result) :
    returnedWord (s.readReg r k) = if (s.x.get r).written then returnedWord (k (s.x.get r).val) else none := by
  unfold State.readReg
  split <;> rfl

@[simp] theorem returnedWord_fault (f : Fault) : returnedWord (.fault f) = none := rfl

/-- What a quiet read returns depends neither on the last word returned, nor on the streams or the last port. -/
theorem quietWord_congr (s : State) (c p : Port) (r : Option Word) (st : Pair Stream) (T : TWord) :
    quietWord { s with port := p, rdata := r, streams := st } c T = quietWord s c T := by
  unfold quietWord
  cases decode T with
  | error why => rfl
  | ok i =>
    cases i <;>
      simp only [isQuietRead, if_true, exec, execRdCpuid, execRdSt, execRdBsqVtor, execRdBsqSp, execRdBsqEntry,
        execRdBsqSt, execRdBsqResends, execRdIrqEn, execRdIrqSt, execRdC1St, execRdC1Vtor, execRdC1Sp, execRdC1Pc,
        execRdVdt, readSeqReg, readLaunchReg, returnedWord_checked, apply_ite returnedWord, returnedWord_readReg, returnedWord_answer,
        returnedWord_fault] <;> rfl

/-- Following a script by quiet reads depends neither on the last word returned, nor on the streams or the last port. -/
theorem pollRun_congr (s : State) (c p : Port) (r : Option Word) (st : Pair Stream) (script : Script) :
    pollRun { s with port := p, rdata := r, streams := st } c script = pollRun s c script := by
  induction script with
  | done => rfl
  | line l rest ih =>
    funext names
    cases l with
    | access opcode d dst => simp only [pollRun, quietWord_congr, ih]
    | exc e => rfl
    | report v => rfl
  | loop body stop rest ihb ihr => funext names; simp only [pollRun, ihb, ihr]
  | untilTest body stop rest ihb ihr => funext names; simp only [pollRun, ihb, ihr]
  | forever body ihb => funext names; simp only [pollRun, ihb]
  | repeatN n body rest ihb ihr => funext names; simp only [pollRun, ihb, ihr]
  | ifThen cond body rest ihb ihr => funext names; simp only [pollRun, ihb, ihr]

/-- A stretch followed by two others. -/
theorem PollResult.andThen_assoc (x : PollResult) (f g : List (Name × Word) → PollResult) :
    (x.andThen f).andThen g = x.andThen fun names => (f names).andThen g := by
  cases x <;> rfl

/-- What comes after a loop is what comes after its rest. -/
theorem pollLoop_andThen (body : List (Name × Word) → PollResult) (stop : List (Name × Word) → Option Bool)
    (rest k : List (Name × Word) → PollResult) (names : List (Name × Word)) :
    (pollLoop body stop rest names).andThen k = pollLoop body stop (fun m => (rest m).andThen k) names := by
  unfold pollLoop
  rw [PollResult.andThen_assoc]
  congr 1
  funext once
  cases stop once with
  | none => rfl
  | some b =>
    cases b with
    | true => rfl
    | false =>
      simp only [PollResult.andThen_assoc]
      congr 1
      funext twice
      split <;> rfl

/-- A sequence of two scripts is followed one after the other. -/
theorem pollRun_seqScript (s : State) (c : Port) (a b : Script) (names : List (Name × Word)) :
    pollRun s c (seqScript a b) names = (pollRun s c a names).andThen (pollRun s c b) := by
  induction a generalizing names with
  | done => rfl
  | line l rest ih =>
    cases l with
    | access opcode d dst =>
      simp only [seqScript, pollRun]
      split
      · rfl
      · exact ih _
    | exc e =>
      simp only [seqScript, pollRun]
      split <;> rfl
    | report v => rfl
  | loop body stop rest _ ihr =>
    simp only [seqScript, pollRun, pollLoop_andThen]
    congr 1
    funext m
    exact ihr m
  | untilTest body stop rest _ ihr =>
    simp only [seqScript, pollRun]
    split
    · rfl
    · exact ihr _
    · simp only [pollLoop_andThen]
      congr 1
      funext m
      exact ihr m
  | forever body _ =>
    simp only [seqScript, pollRun, pollLoop_andThen]
    rfl
  | repeatN n body rest _ ihr =>
    simp only [seqScript, pollRun, PollResult.andThen_assoc]
    congr 1
    funext m
    exact ihr m
  | ifThen cond body rest _ ihr =>
    simp only [seqScript, pollRun]
    split
    · rfl
    · simp only [PollResult.andThen_assoc]
      congr 1
      funext m
      exact ihr m
    · exact ihr _

/-- Everything a loop that never gets on can be: its body never gets on, or what follows it does not, or the condition
fails and the second pass is like the first. -/
theorem pollLoop_held {body : List (Name × Word) → PollResult} {stop : List (Name × Word) → Option Bool}
    {rest : List (Name × Word) → PollResult} {names : List (Name × Word)}
    (h : pollLoop body stop rest names = .held) :
    body names = .held ∨ ∃ once, body names = .through once ∧
      ((stop once = some true ∧ rest once = .held) ∨
       (stop once = some false ∧ (body once = .held ∨ body once = .through once))) := by
  unfold pollLoop at h
  cases hb : body names with
  | held => exact .inl rfl
  | acts => simp [hb, PollResult.andThen] at h
  | through once =>
    refine .inr ⟨once, rfl, ?_⟩
    simp only [hb, PollResult.andThen] at h
    cases hs : stop once with
    | none => simp [hs] at h
    | some b =>
      cases b with
      | true => exact .inl ⟨rfl, by simpa [hs] using h⟩
      | false =>
        refine .inr ⟨rfl, ?_⟩
        simp only [hs] at h
        cases h2 : body once with
        | held => exact .inl rfl
        | acts => simp [h2] at h
        | through twice =>
          simp only [h2] at h
          split at h
          · rename_i he
            exact .inr (by rw [he])
          · cases h

/-- A loop whose condition fails and whose next pass leaves the names alone, or never gets on, polls for ever. -/
theorem pollLoop_again {body : List (Name × Word) → PollResult} {stop : List (Name × Word) → Option Bool}
    {rest : List (Name × Word) → PollResult} {names : List (Name × Word)} (hs : stop names = some false)
    (h : body names = .held ∨ body names = .through names) : pollLoop body stop rest names = .held := by
  rcases h with h | h <;> simp [pollLoop, h, hs, PollResult.andThen]

/-- A control form of a script that never gets on unfolds to one that never gets on. -/
theorem unfoldScript_held {s : State} {c : Port} {script next : Script} {names : List (Name × Word)}
    (h : pollRun s c script names = .held) (hu : unfoldScript s.cfg names script = some next) :
    pollRun s c next names = .held := by
  cases script with
  | done => cases hu
  | line l rest => cases hu
  | loop body stop rest =>
    cases hu
    rw [pollRun_seqScript]
    obtain hb | ⟨once, hb, ⟨hs, hr⟩ | ⟨hs, hb2⟩⟩ := pollLoop_held h
    · rw [hb]; rfl
    · simp only [hb, PollResult.andThen, pollRun, hs, hr]
    · simp only [hb, PollResult.andThen, pollRun, hs]
      exact pollLoop_again hs hb2
  | untilTest body stop rest =>
    simp only [pollRun] at h
    simp only [unfoldScript] at hu
    cases hs : evalCond s.cfg names stop with
    | none => simp [hs] at h
    | some b =>
      rw [hs] at h hu
      cases b with
      | true => cases hu; exact h
      | false => cases hu; exact h
  | forever body =>
    cases hu
    rw [pollRun_seqScript]
    obtain hb | ⟨once, hb, ⟨hs, hr⟩ | ⟨hs, hb2⟩⟩ := pollLoop_held h
    · rw [hb]; rfl
    · cases hr
    · simp only [hb, PollResult.andThen, pollRun]
      exact pollLoop_again hs hb2
  | repeatN n body rest =>
    cases n with
    | zero => cases hu; exact h
    | succ n =>
      cases hu
      rw [pollRun_seqScript]
      simpa only [pollRun, pollRepeat, PollResult.andThen_assoc] using h
  | ifThen cond body rest =>
    simp only [pollRun] at h
    simp only [unfoldScript] at hu
    cases hs : evalCond s.cfg names cond with
    | none => simp [hs] at h
    | some b =>
      rw [hs] at h hu
      cases b with
      | true => cases hu; simpa only [pollRun_seqScript, if_true] using h
      | false => cases hu; exact h

/-- A script at a control form that never gets on has a next position: its condition has a value. -/
theorem unfoldScript_some {s : State} {c : Port} {script : Script} {names : List (Name × Word)}
    (hd : script ≠ .done) (hl : ∀ l rest, script ≠ .line l rest) (h : pollRun s c script names = .held) :
    ∃ next, unfoldScript s.cfg names script = some next := by
  cases script with
  | done => exact absurd rfl hd
  | line l rest => exact absurd rfl (hl l rest)
  | loop body stop rest => exact ⟨_, rfl⟩
  | untilTest body stop rest =>
    cases hs : evalCond s.cfg names stop with
    | none => simp [pollRun, hs] at h
    | some b => exact ⟨_, by simp only [unfoldScript, hs, Option.map_some]; rfl⟩
  | forever body => exact ⟨_, rfl⟩
  | repeatN n body rest => cases n <;> exact ⟨_, rfl⟩
  | ifThen cond body rest =>
    cases hs : evalCond s.cfg names cond with
    | none => simp [pollRun, hs] at h
    | some b => exact ⟨_, by simp only [unfoldScript, hs, Option.map_some]; rfl⟩

/-- A stream held by its own poll takes its core's steps for ever without changing the block: each answers a next state
that differs only in the stream's position, the port and the word returned, and the stream is held there too (R220). -/
theorem coreStep_pollHeld {s : State} {c : Port} (hm : streamMayStep s c = true) (h : pollHeld s c = true) :
    ∃ p r st, coreStep c s = .next { s with port := p, rdata := r, streams := st } ∧
      pollHeld { s with port := p, rdata := r, streams := st } c = true := by
  have h : pollRun s c (s.streams.get c).script (s.streams.get c).names = .held := by
    unfold pollHeld at h
    simpa using h
  have advanced (p : Port) (r : Option Word) (rest : Script) (names : List (Name × Word))
      (hr : pollRun s c rest names = .held) :
      pollHeld { s with port := p, rdata := r, streams := s.streams.set c ⟨rest, names⟩ } c = true := by
    unfold pollHeld
    simp [pollRun_congr, hr]
  unfold coreStep
  rw [if_pos hm]
  split
  · rename_i hd
    rw [hd] at h
    cases h
  · rename_i l rest hl
    rw [hl] at h
    cases l with
    | report v => cases h
    | exc e =>
      simp only [pollRun] at h
      split at h
      · rename_i hc
        have hc' : (1 ≤ e ∧ e < s.cfg.ncorex) ∧ s.ready = false := by simpa using hc
        refine ⟨s.port, s.rdata, s.streams, ?_, ?_⟩
        · simp only [lineStep, exception]
          rw [if_neg (by simp [hc'.1]), if_pos (by simp [hc'.2])]
          rfl
        · simp [pollHeld, hl, pollRun, hc'.1, hc'.2]
      · cases h
    | access opcode d dst =>
      simp only [pollRun] at h
      cases hv : evalOperand (s.streams.get c).names d with
      | none => simp [hv] at h
      | some v =>
        cases hw : quietWord s c (wordOf opcode v) with
        | none => simp [hv, hw] at h
        | some w =>
          simp only [hv, hw, Option.bind_some] at h
          refine ⟨c, some w, _, ?_, advanced c (some w) _ _ h⟩
          simp only [lineStep, hv, quietWord_some hw, afterTransaction, State.advance]
  · rename_i hd hl
    obtain ⟨next, hu⟩ := unfoldScript_some hd hl h
    rw [hu]
    exact ⟨s.port, s.rdata, _, rfl, advanced _ _ _ _ (unfoldScript_held h hu)⟩

end Sys2Proof.Machine
end

