-- ==== Sys2Proof/Tests/Slice0.lean ====
section
/-! SUPPORT. Tests: the checks of WellFormed on ill-formed terms; words written out from the opcode map; one step per
test from the vectors of 95_test_vectors.md; and, for every statement with hypotheses, a state that meets them. -/

namespace Sys2Proof.Tests

open Machine

/-! ### Helpers -/

/-- The next state of an outcome, if it is one. -/
def after : Result → Option State
  | .next t => some t
  | _ => none

/-- The fault of an outcome, if it is one. -/
def faultOf : Result → Option Fault
  | .fault f => some f
  | _ => none

/-- The refusal of an outcome, if it is one. -/
def refusalOf : Result → Option Refusal
  | .refused r => some r
  | _ => none

/-- The word a transaction returns, if it answers a next state and returns one. -/
def returned (r : Result) : Option Word := (after r).bind (·.rdata)

/-- `CleanReset`, with `p` as the issuing port. -/
def clean (p : Port) : State := { State.reset with ready := true, port := p }

/-- A full direction 0 that holds `v`. -/
def full0 (p : Port) (v : Word) : State :=
  { clean p with x := { (clean p).x with slot0 := ⟨v, true⟩ }, full := ⟨true, false⟩ }

/-- A full direction 1 that holds `v`. -/
def full1 (p : Port) (v : Word) : State :=
  { clean p with x := { (clean p).x with slot1 := ⟨v, true⟩ }, full := ⟨false, true⟩ }

/-- The three words of vector B6 written. -/
def written : State :=
  { clean .p0 with x := { (clean .p0).x with
      bsqVtor := ⟨0x20000100#32, true⟩, bsqSp := ⟨0x20003000#32, true⟩, bsqEntry := ⟨0x10000200#32, true⟩ } }

/-- The sequencer at step `k`, phase `ph`. -/
def busyAt (k : BitVec 3) (ph : BsqPhase) : State :=
  { written with bsq := ⟨stateOfStep k, k, ph, false, 0#32⟩ }

/-- The end state of trace H1: core 1 launched. -/
def launched (p : Port) : State :=
  { written with
    port := p, c1Running := true, bsq := ⟨.peerRunning, 6#3, .drain, false, 0#32⟩, pbl := ⟨6#3, .recv, 0x10000200#32⟩
    x := { written.x with
      c1Vtor := ⟨0x20000100#32, true⟩, c1Sp := ⟨0x20003000#32, true⟩, c1Pc := ⟨0x10000200#32, true⟩ } }

/-- The next event of the interleaving. -/
def scheduled (s : State) (e : Event) : State := { s with schedule := [e] }

/-- Core 0's stream stands at one line, and core 0 is scheduled. -/
def atLine (s : State) (l : Line) : State :=
  scheduled { s with streams := ⟨⟨.line l .done, []⟩, s.streams.c1⟩ } (.core .p0)

/-- Core `p` runs the handler of index `idx`, whose script has ended. -/
def inHandler (idx : Nat) : State :=
  { clean .p0 with
    active := ⟨some idx, none⟩, streams := ⟨⟨.done, []⟩, .empty⟩, resume := ⟨⟨7#32, ⟨wakeScript, []⟩⟩, ⟨0#32, .empty⟩⟩ }

/-! ### WellFormed: every check refuses an ill-formed term -/

theorem test_wf_index_64 : Instr.wf (.rdVdt 64) = false := by decide
theorem test_wf_index_63 : Instr.wf (.rdVdt 63) = true := by decide
theorem test_wf_reference : Config.reference.wf = true := by decide
theorem test_wf_geometry : configProblem { Config.reference with nvec := 65 } = some .geometry := by decide
theorem test_wf_lines : configProblem { Config.reference with nvec := 49 } = some .tooManyLines := by decide
theorem test_wf_base : configProblem { Config.reference with vtBase := 0xFFFFFF44#32 } = some .tableBase := by decide
theorem test_wf_base_aligned : configProblem { Config.reference with vtBase := 0x20000102#32 } = some .tableBase := by
  decide
theorem test_wf_default : configProblem { Config.reference with defaultHandler := 0#32 } = some .nullDefault := by decide
theorem test_wf_index : configProblem { Config.reference with handlers := [(48, 1#32)] } = some .configuredIndex := by
  decide
/-- Vector T6. -/
theorem test_wf_null_entry : configProblem { Config.reference with handlers := [(20, 0#32)] } = some .nullEntry := by
  decide
theorem test_wf_kind : configProblem { Config.reference with handlers := [(20, 5#32)] } = some .handlerKind := by decide
theorem test_wf_default_kind :
    configProblem { Config.reference with kinds := (0x10000100#32, .app .done) :: Config.reference.kinds } =
      some .defaultKind := by decide

/-! ### Words written out from 30_encoding.md R93, and the refused neighbours of Part 2 of 95_test_vectors.md -/

theorem test_decode_mailbox :
    decode 0x0000000000#40 = .ok .rdCpuid ∧ decode 0x0100000000#40 = .ok .rdSt ∧
    decode 0x82FFFFFFFF#40 = .ok (.wrTx 0xFFFFFFFF#32) ∧ decode 0x0300000000#40 = .ok .rdRx ∧
    decode 0x84DEADBEEF#40 = .ok (.wrWake 0xDEADBEEF#32) ∧ decode 0x8500000000#40 = .ok (.wrWait 0#32) := by decide
theorem test_decode_sequencer :
    decode 0x0800000000#40 = .ok .rdBsqVtor ∧ decode 0x8820000100#40 = .ok (.wrBsqVtor 0x20000100#32) ∧
    decode 0x0900000000#40 = .ok .rdBsqSp ∧ decode 0x8920003000#40 = .ok (.wrBsqSp 0x20003000#32) ∧
    decode 0x0A00000000#40 = .ok .rdBsqEntry ∧ decode 0x8A10000200#40 = .ok (.wrBsqEntry 0x10000200#32) ∧
    decode 0x8B00000001#40 = .ok (.wrBsqCtrl true) ∧ decode 0x8B00000000#40 = .ok (.wrBsqCtrl false) ∧
    decode 0x0C00000000#40 = .ok .rdBsqSt ∧ decode 0x0D00000000#40 = .ok .rdBsqResends := by decide
theorem test_decode_lines :
    decode 0x1000000000#40 = .ok .rdIrqEn ∧ decode 0x900000000F#40 = .ok (.wrIrqEn 0xF#32) ∧
    decode 0x9100000030#40 = .ok (.wrIrqEnSet 0x30#32) ∧ decode 0x9200000005#40 = .ok (.wrIrqEnClr 5#32) ∧
    decode 0x93000000FF#40 = .ok (.wrIrqEnXor 0xFF#32) ∧ decode 0x1400000000#40 = .ok .rdIrqSt ∧
    decode 0x9400000004#40 = .ok (.wrIrqSt 4#32) := by decide
theorem test_decode_launch_and_table :
    decode 0x1800000000#40 = .ok .rdC1St ∧ decode 0x1900000000#40 = .ok .rdC1Vtor ∧
    decode 0x1A00000000#40 = .ok .rdC1Sp ∧ decode 0x1B00000000#40 = .ok .rdC1Pc ∧
    decode 0x4000000000#40 = .ok (.rdVdt 0) ∧ decode 0x5200000000#40 = .ok (.rdVdt 18) ∧
    decode 0x7F00000000#40 = .ok (.rdVdt 63) := by decide
theorem test_decode_reserved :
    decode 0x0000000001#40 = .error .readWithData ∧ decode 0x8000000000#40 = .error .writeOfReadOnly ∧
    decode 0x0200000000#40 = .error .readOfWriteOnly ∧ decode 0x0600000000#40 = .error .undefinedOffset ∧
    decode 0x8600000000#40 = .error .undefinedOffset ∧ decode 0x8B80000001#40 = .error .ctrlReservedBits ∧
    decode 0x0E00000000#40 = .error .undefinedOffset ∧ decode 0x9700000000#40 = .error .undefinedOffset ∧
    decode 0xBF00000000#40 = .error .undefinedOffset ∧ decode 0x5200000001#40 = .error .readWithData ∧
    decode 0xD212345678#40 = .error .tableWrite := by decide
theorem test_encode_round_trip :
    encode (.wrIrqEnXor 0xFF#32) = 0x93000000FF#40 ∧ encode (.rdVdt 22) = 0x5600000000#40 := by decide
theorem test_decodeTableWord :
    decodeTableWord 40 0x8B00000001 = some (.wrBsqCtrl true) ∧ decodeTableWord 40 0x8B00000002 = none := by decide

/-! ### One step per test (Parts 3 to 6 of 95_test_vectors.md) -/

theorem test_cpuid : returned (exec .rdCpuid (clean .p0)) = some 0#32 ∧ returned (exec .rdCpuid (clean .p1)) = some 1#32 := by
  decide
/-- Vectors M2b and M2e. -/
theorem test_status : returned (exec .rdSt (full0 .p1 0#32)) = some 6#32 ∧
    returned (exec .rdSt { full0 .p0 0#32 with evt := ⟨true, false⟩ }) = some 0x19#32 := by decide
/-- Vector M3a. -/
theorem test_tx : (after (exec (.wrTx 0xA5#32) (clean .p0))).map (fun t => (t.x.slot0, t.full, t.hist)) =
    some (⟨0xA5#32, true⟩, ⟨true, false⟩, [.push .p0 0xA5#32]) := by decide
/-- Vector M3b. -/
theorem test_tx_full : faultOf (exec (.wrTx 1#32) (full0 .p0 0xA5#32)) = some (.channelCorrupt .p0 .writeWhileFull) := by
  decide
/-- Vector M4a. -/
theorem test_rx : (after (exec .rdRx (full0 .p1 0xA5#32))).map (fun t => (t.rdata, t.full, t.hist)) =
    some (some 0xA5#32, ⟨false, false⟩, [.pop .p0 0xA5#32]) := by decide
/-- Vector M4c. -/
theorem test_rx_empty : faultOf (exec .rdRx (full0 .p0 0xA5#32)) = some (.channelCorrupt .p1 .readWhileEmpty) := by
  decide
/-- Vector M5c. -/
theorem test_wake : (after (exec (.wrWake 0#32) { clean .p0 with
      parked := ⟨false, true⟩, cfg := { Config.reference with evtLatch := false } })).map (·.evt) =
    some ⟨false, true⟩ := by decide
/-- Vector M6a, and M6b. -/
theorem test_wait : (after (exec (.wrWait 0#32) { launched .p1 with evt := ⟨false, true⟩ })).map (fun t => (t.evt, t.parked)) =
      some (⟨false, false⟩, ⟨false, false⟩) ∧
    (after (exec (.wrWait 0#32) (launched .p1))).map (·.parked) = some ⟨false, true⟩ := by decide
/-- Vector M6c. -/
theorem test_wait_in_handler : faultOf (exec (.wrWait 0#32) (inHandler 18)) = some (.waitInHandler .p0) := by decide
/-- Vector B2. -/
theorem test_bsqVtor : returned (exec .rdBsqVtor written) = some 0x20000100#32 ∧
    (after (exec (.wrBsqVtor 0x20000100#32) (clean .p0))).map (·.x.bsqVtor) = some ⟨0x20000100#32, true⟩ := by decide
theorem test_bsqSp : returned (exec .rdBsqSp written) = some 0x20003000#32 ∧
    (after (exec (.wrBsqSp 3#32) (clean .p0))).map (·.x.bsqSp) = some ⟨3#32, true⟩ := by decide
theorem test_bsqEntry : returned (exec .rdBsqEntry written) = some 0x10000200#32 ∧
    (after (exec (.wrBsqEntry 4#32) (clean .p0))).map (·.x.bsqEntry) = some ⟨4#32, true⟩ := by decide
/-- Vector B9. -/
theorem test_bsqSp_locked : faultOf (exec (.wrBsqSp 0x20004000#32) (busyAt 0#3 .drain)) = some (.seqRegLocked .bsqSp) := by
  decide
/-- Vector B6. -/
theorem test_go : (after (exec (.wrBsqCtrl true) written)).map (fun t => bsqStatusWord t.bsq) = some 9#32 := by decide
/-- Vectors B5 and B10. -/
theorem test_go_faults :
    faultOf (exec (.wrBsqCtrl true) { written with x := { written.x with bsqVtor := ⟨0x20000200#32, true⟩ } }) =
      some (.vtorMismatch 0x20000200#32) ∧
    faultOf (exec (.wrBsqCtrl true) (launched .p0)) = some (.seqReinvoke .peerRunning) := by decide
/-- The values of trace H1 after its steps 17 and 41. -/
theorem test_bsqSt : returned (exec .rdBsqSt (busyAt 2#3 .recv)) = some 0x420A#32 ∧
    returned (exec .rdBsqSt (launched .p0)) = some 0x606#32 := by decide
theorem test_bsqResends : returned (exec .rdBsqResends { clean .p0 with bsq := ⟨.idle, 0#3, .drain, false, 9#32⟩ }) =
    some 9#32 := by decide
/-- Vector I1. -/
theorem test_irqEn : (after (exec (.wrIrqEn 0xF#32) (clean .p0))).map (·.en) = some ⟨0xF#32, 0#32⟩ ∧
    returned (exec .rdIrqEn { clean .p1 with en := ⟨0xF#32, 0x30#32⟩ }) = some 0x30#32 := by decide
/-- Vectors I2, I3, I4. -/
theorem test_irqEn_aliases :
    (after (exec (.wrIrqEnSet 0x30#32) { clean .p0 with en := ⟨0xF#32, 0#32⟩ })).map (·.en.c0) = some 0x3F#32 ∧
    (after (exec (.wrIrqEnClr 5#32) { clean .p0 with en := ⟨0x3F#32, 0#32⟩ })).map (·.en.c0) = some 0x3A#32 ∧
    (after (exec (.wrIrqEnXor 0xFF#32) { clean .p0 with en := ⟨0x3A#32, 0#32⟩ })).map (·.en.c0) = some 0xC5#32 := by
  decide
/-- Vector I6. -/
theorem test_irqEn_masked : (after (exec (.wrIrqEn 0xFFFFFFFF#32)
    { clean .p1 with cfg := { Config.reference with nvec := 24 } })).map (·.en.c1) = some 0xFF#32 := by decide
/-- Vector I8. -/
theorem test_irqSt : (after (exec (.wrIrqSt 4#32) { clean .p1 with cond := 0x44#32 })).map (·.cond) = some 0x40#32 ∧
    returned (exec .rdIrqSt { clean .p0 with cond := 0x44#32 }) = some 0x44#32 := by decide
theorem test_c1St : returned (exec .rdC1St (launched .p1)) = some 0x601#32 ∧
    returned (exec .rdC1St (clean .p0)) = some 0#32 := by decide
theorem test_c1Regs : returned (exec .rdC1Vtor (launched .p0)) = some 0x20000100#32 ∧
    returned (exec .rdC1Sp (launched .p0)) = some 0x20003000#32 ∧
    returned (exec .rdC1Pc (launched .p0)) = some 0x10000200#32 := by decide
/-- Vector B12. -/
theorem test_c1Pc_halted : faultOf (exec .rdC1Pc (clean .p0)) = some (.unwrittenRegister .c1Pc) := by decide
/-- Vectors T1 to T4. -/
theorem test_vdt : returned (exec (.rdVdt 0) (clean .p0)) = some 0x20002000#32 ∧
    returned (exec (.rdVdt 22) (clean .p1)) = some 0x10000340#32 ∧
    returned (exec (.rdVdt 47) (clean .p0)) = some 0x10000100#32 := by decide
/-- Vector T5. -/
theorem test_vdt_range : refusalOf (exec (.rdVdt 48) (clean .p0)) = some (.vdtIndexRange 48) := by decide
/-- Vectors M8a and E15. -/
theorem test_checks : faultOf (exec .rdSt State.reset) = some (.notReady .p0 0x0100000000#40) ∧
    refusalOf (exec (.wrBsqVtor 0x20000100#32) (clean .p1)) = some (.portRights 0x8820000100#40 .p1) := by decide
/-- Vectors M8b and M8c. -/
theorem test_lockout : faultOf (exec .rdRx (busyAt 3#3 .send)) = some (.seqBusyLockout 0x0300000000#40) ∧
    returned (exec .rdIrqSt (busyAt 3#3 .send)) = some 0#32 := by decide
/-- Vector M7. -/
theorem test_waitResume : (after (step (scheduled { launched .p0 with parked := ⟨false, true⟩, evt := ⟨false, true⟩ }
      (.waitResume .p1)))).map (fun t => (t.parked, t.evt)) = some (⟨false, false⟩, ⟨false, false⟩) := by decide
/-- Vector I7, second line. -/
theorem test_edge : (after (step (scheduled { clean .p0 with cond := 4#32 } (.edge 6)))).map (·.cond) = some 0x44#32 := by
  decide
/-- Vector X1: the lower line wins; vector X2: only enabled lines count. -/
theorem test_dispatch :
    (after (step (scheduled { clean .p0 with cond := 0x44#32, en := ⟨0x44#32, 0#32⟩ } (.dispatch .p0)))).map
        (fun t => (t.active.c0, t.pc.c0, t.cond)) = some (some 18, 0x10000300#32, 0x44#32) ∧
    (after (step (scheduled { clean .p0 with cond := 0x44#32, en := ⟨0x40#32, 0#32⟩ } (.dispatch .p0)))).map
        (fun t => (t.active.c0, t.pc.c0)) = some (some 22, 0x10000340#32) := by decide
/-- Vectors X8 and X9. -/
theorem test_exception :
    (after (step (atLine (clean .p0) (.exc 3)))).map (fun t => (t.active.c0, t.pc.c0)) = some (some 3, 0x10000100#32) ∧
    faultOf (step (atLine (inHandler 18) (.exc 3))) = some (.nestedException .p0 3) := by decide
/-- Vector X10. -/
theorem test_hret : (after (step (scheduled (inHandler 18) (.hret .p0)))).map
    (fun t => (t.active.c0, t.pc.c0, t.hist)) = some (none, 7#32, [.ret .p0]) := by decide
/-- Vector X7: a trap loop stays. -/
theorem test_trap : (after (step (scheduled (inHandler 47) (.trap .p0)))).map (·.active.c0) = some (some 47) ∧
    (after (step (scheduled (inHandler 47) (.hret .p0)))).map (·.active.c0) = some (some 47) := by decide
/-- Vector B13. -/
theorem test_resends_wrap : (after (step (scheduled { full1 .p0 5#32 with
      x := { written.x with slot1 := ⟨5#32, true⟩ }, bsq := ⟨.startSent, 2#3, .recv, false, 0xFFFFFFFF#32⟩ } .bsqStep))).map
    (fun t => (t.bsq.resends, t.bsq.desync, t.bsq.k)) = some (0#32, true, 2#3) := by decide
/-- Vector H3b. -/
theorem test_deviation : faultOf (step (scheduled (full0 .p0 0x55#32) .pblStep)) = some (.handshakeDeviation 0#3 0x55#32) := by
  decide
/-- The last step of trace H1. -/
theorem test_launch : (after (step (scheduled { launched .p0 with c1Running := false, pbl := ⟨6#3, .launch, 0#32⟩ }
      .pblStep))).map (fun t => (t.c1Running, t.pc.c1, t.hist)) =
    some (true, 0x10000200#32, [.launch 0x20000100#32 0x20003000#32 0x10000200#32]) := by decide
/-- From reset, one placed word runs as the first transaction. -/
theorem test_withFetchWord : returned (step (State.reset.withFetchWord 40 0x5200000000)) = some 0x10000300#32 ∧
    refusalOf (step (State.reset.withFetchWord 40 0x0200000000)) = some (.reservedEncoding 0x0200000000#40) := by decide
/-- Program P1's first lines: the poll lets the sender on at an empty slot. -/
theorem test_send_polls : (after (step (scheduled { clean .p0 with
      streams := ⟨⟨.untilTest (pollStatus 0) (bitsAre 0 3 3 0#32) .done, [(0, 5#32)]⟩, .empty⟩ } (.core .p0)))).map
    (·.streams.c0.script) = some .done := by decide

/-- `==`, `!=` and the operators of R7 in a condition; a name no line has bound and a slice of bits that no word has
have no value. -/
theorem test_conditions :
    evalCond Config.reference [(0, 6#32)] (bitsAre 0 2 0 6#32) = some true ∧
    evalCond Config.reference [(0, 5#32)] (.ne (.bound 0) (.lit 5#32)) = some false ∧
    evalCond Config.reference [(0, 5#32), (1, 7#32)]
      (.and (.ne (.bound 0) (.bound 1)) (.eq (.xor (.bound 0) (.lit 2#32)) (.bound 1))) = some true ∧
    evalOperand [(0, 0xF5#32)] (.slice (.bound 0) 31 4) = some 0xF#32 ∧
    evalOperand [(0, 0xF5#32)] (.slice (.bound 0) 32 4) = none ∧
    evalOperand [(0, 0xF5#32)] (.slice (.bound 0) 3 4) = none ∧
    evalCond Config.reference [] (.not (.eq (.bound 0) (.lit 0#32))) = none := by decide

/-- `RESET` then `READY_UP`, from any state of a well-formed launch, meets `CleanReset` (R51). -/
theorem test_cleanReset (s : State) (later : List Event) :
    CleanReset { resetState { s with schedule := later } with ready := true } := rfl

/-! ### The end of a run (R322) -/

/-- The end state of program P2: core 0's script has ended, the Entry Runner polls an empty direction 0. -/
def ended : State := { launched .p0 with streams := ⟨⟨.done, []⟩, ⟨.forever (recvScript 1 2), []⟩⟩ }

/-- It is an end state; with a word still to send it is none. -/
theorem test_runEnded : runEnded ended = true ∧
    runEnded { ended with streams := ⟨⟨sendScript 0 (.lit 1#32), []⟩, ended.streams.c1⟩ } = false := by decide
/-- `BOOT` at its poll of `BSQ_ST`, with a simulated peer. -/
def booting : State :=
  { busyAt 2#3 .recv with
    cfg := { Config.reference with peer := .env }
    streams := ⟨⟨.loop (readLine 0x0C#8 0 .done) (bitsAre 0 2 0 6#32) .done, []⟩, .empty⟩ }

/-- When the peer has no step to come every agent is held, but the finite script of core 0 has not run out; when it has
one, not every agent is held. -/
theorem test_runEnded_boot : allSettled booting = true ∧ runEnded booting = false ∧
    allSettled { booting with schedule := [.env (.wrTx 1#32), .bsqStep] } = false := by decide

/-- Program P5 with `EVT_LATCH` false, core 1 stuck with the word unread: parked, with its receive still to come. Nothing
can move, and it is no end. Nor is a wait as the last line of a script. -/
theorem test_runEnded_parked :
    allSettled { full0 .p0 0x2A#32 with
        cfg := { Config.reference with evtLatch := false }, c1Running := true, parked := ⟨false, true⟩
        streams := ⟨⟨.done, []⟩, ⟨readLine 0x03#8 1 .done, []⟩⟩ } = true ∧
    runEnded { full0 .p0 0x2A#32 with
        cfg := { Config.reference with evtLatch := false }, c1Running := true, parked := ⟨false, true⟩
        streams := ⟨⟨.done, []⟩, ⟨readLine 0x03#8 1 .done, []⟩⟩ } = false ∧
    runEnded { ended with parked := ⟨true, false⟩ } = false := by decide

/-- A core in a trap loop is in an end state, its background script unfinished. -/
theorem test_runEnded_trap : runEnded (inHandler 47) = true := by decide
/-- A handler that polls for ever is held; one whose script has ended returns. -/
theorem test_runEnded_handler :
    coreSettled { inHandler 22 with streams := ⟨⟨recvScript 0 1, []⟩, .empty⟩ } .p0 = true ∧
    coreSettled (inHandler 22) .p0 = false := by decide

/-! ### States that meet the hypotheses of the statements -/

/-- The invariants of a state whose cores run no handler, part by part. -/
theorem inv_parts {s : State} (h1 : s.cfg.wf = true) (h2 : SequencerConsistent s.bsq) (h3 : BootWordsReady s)
    (h4 : ResponderConsistent s) (h5 : LinesMasked s) (h6 : HaltedCoreQuiet s) (h7 : ActiveIndexLegal s)
    (h8 : FullSlotsWritten s) : Inv s := ⟨h1, h2, h3, h4, h5, h6, h7, h8⟩

/-- Core 0 of a clean block with lines 2 and 6 pending and enabled. -/
def pending : State := { clean .p0 with cond := 0x44#32, en := ⟨0x44#32, 0#32⟩ }

/-- The handshake just started. -/
def started : State := busyAt 0#3 .drain

/-- The sequencer waits at step 2 and the word `v` is in its inbound slot. -/
def answered (v : Word) : State :=
  { busyAt 2#3 .recv with x := { written.x with slot1 := ⟨v, true⟩ }, full := ⟨false, true⟩ }

/-- The start of trace H3a: the handshake just started, a stale word in direction 1. -/
def stale : State :=
  { started with x := { written.x with slot1 := ⟨0x77#32, true⟩ }, full := ⟨false, true⟩ }

theorem inv_clean : Inv (clean .p0) :=
  inv_parts (by decide) ⟨rfl, rfl⟩ (by decide) (by decide) (by decide) (by decide)
    (fun c i h => by cases c <;> cases h) (fun d => by cases d <;> decide)
theorem inv_pending : Inv pending :=
  inv_parts (by decide) ⟨rfl, rfl⟩ (by decide) (by decide) (by decide) (by decide)
    (fun c i h => by cases c <;> cases h) (fun d => by cases d <;> decide)
theorem inv_written : Inv written :=
  inv_parts (by decide) ⟨rfl, rfl⟩ (by decide) (by decide) (by decide) (by decide)
    (fun c i h => by cases c <;> cases h) (fun d => by cases d <;> decide)
theorem inv_started : Inv started :=
  inv_parts (by decide) ⟨by decide, rfl, by decide⟩ (by decide) (by decide) (by decide) (by decide)
    (fun c i h => by cases c <;> cases h) (fun d => by cases d <;> decide)
theorem inv_send : Inv (busyAt 5#3 .send) :=
  inv_parts (by decide) ⟨by decide, rfl, by decide⟩ (by decide) (by decide) (by decide) (by decide)
    (fun c i h => by cases c <;> cases h) (fun d => by cases d <;> decide)
theorem inv_recv : Inv (busyAt 2#3 .recv) :=
  inv_parts (by decide) ⟨by decide, rfl, by decide⟩ (by decide) (by decide) (by decide) (by decide)
    (fun c i h => by cases c <;> cases h) (fun d => by cases d <;> decide)
theorem inv_match : Inv (answered 1#32) :=
  inv_parts (by decide) ⟨by decide, rfl, by decide⟩ (by decide) (by decide) (by decide) (by decide)
    (fun c i h => by cases c <;> cases h) (fun d => by cases d <;> decide)
theorem inv_mismatch : Inv (answered 9#32) :=
  inv_parts (by decide) ⟨by decide, rfl, by decide⟩ (by decide) (by decide) (by decide) (by decide)
    (fun c i h => by cases c <;> cases h) (fun d => by cases d <;> decide)
theorem inv_launched : Inv (launched .p0) :=
  inv_parts (by decide) ⟨rfl, rfl⟩ (by decide) (by decide) (by decide) (by decide)
    (fun c i h => by cases c <;> cases h) (fun d => by cases d <;> decide)
theorem inv_handler : Inv (inHandler 47) :=
  inv_parts (by decide) ⟨rfl, rfl⟩ (by decide) (by decide) (by decide) (by decide)
    (fun c i h => by cases c <;> cases h; decide) (fun d => by cases d <;> decide)
theorem inStep_started : HandshakeInStep started :=
  ⟨inv_started, rfl, by decide, rfl, rfl, by decide, fun _ => by decide, by decide⟩
theorem inStep_launched : HandshakeInStep (launched .p0) :=
  ⟨inv_launched, rfl, by decide, rfl, rfl, by decide, by decide, by decide⟩

theorem witness_EncodeDecodeInverse : Instr.wf (.rdVdt 63) = true ∧ decode 0x7F00000000#40 = .ok (.rdVdt 63) ∧
    Instr.wf .rdCpuid = true ∧ fieldW (encode .rdCpuid) = false := by decide
theorem witness_DecodeFollowsOpcodeMap : decode 0x5200000000#40 = .ok (.rdVdt 18) ∧
    (∃ r ∈ opcodeRows, r.selects 0x5200000000#40 = true) ∧
    opcodeRows[12]? = some ⟨"WR.BSQ_CTRL", 0x8B00000000#40, 0xFFFFFFFFFE#40⟩ ∧
    OpcodeRow.selects ⟨"WR.BSQ_CTRL", 0x8B00000000#40, 0xFFFFFFFFFE#40⟩ 0x8B00000001#40 = true := by decide
/-- One word for each of the classes (a) to (f), the offset ranges at both ends. -/
theorem witness_ReservedWordsRejected :
    (fieldW 0x0000000001#40 = false ∧ fieldD 0x0000000001#40 ≠ 0#32) ∧
    (fieldS 0xC000000000#40 = true ∧ fieldW 0xC000000000#40 = true) ∧
    (fieldS 0x1C00000000#40 = false ∧ 0x1C#6 ≤ fieldA 0x1C00000000#40 ∧ 0x1C#6 ≤ fieldA 0xBF00000000#40 ∧
      fieldA 0x0600000000#40 ∈ [0x06#6, 0x07#6, 0x0E#6, 0x0F#6, 0x15#6, 0x16#6, 0x17#6]) ∧
    (fieldS 0x0200000000#40 = false ∧ fieldW 0x0200000000#40 = false ∧
      fieldA 0x0200000000#40 ∈ [0x02#6, 0x04#6, 0x05#6, 0x0B#6, 0x11#6, 0x12#6, 0x13#6]) ∧
    (fieldS 0x9B00000000#40 = false ∧ fieldW 0x9B00000000#40 = true ∧
      fieldA 0x9B00000000#40 ∈ [0x00#6, 0x01#6, 0x03#6, 0x0C#6, 0x0D#6, 0x18#6, 0x19#6, 0x1A#6, 0x1B#6]) ∧
    (fieldS 0x8B80000001#40 = false ∧ fieldW 0x8B80000001#40 = true ∧ fieldA 0x8B80000001#40 = 0x0B#6 ∧
      (fieldD 0x8B80000001#40).extractLsb' 1 31 ≠ 0#31) := by decide
theorem witness_CpuidReadReturnsPort : (clean .p0).ready = true ∧ (clean .p1).ready = true := by decide
theorem witness_StatusReadReturnsFlags : (clean .p0).ready = true ∧ (full0 .p1 0#32).ready = true := by decide
theorem witness_TxPushesWord : (clean .p0).ready = true ∧ ((clean .p0).port = .p0 → (clean .p0).bsq.state.busy = false) ∧
    (clean .p0).full.get (clean .p0).port = false := by decide
theorem witness_RxPopsWord : (full0 .p1 5#32).ready = true ∧
    ((full0 .p1 5#32).port = .p0 → (full0 .p1 5#32).bsq.state.busy = false) ∧
    (full0 .p1 5#32).full.get (full0 .p1 5#32).port.other = true ∧
    (full0 .p1 5#32).x.get (slotOf (full0 .p1 5#32).port.other) = ⟨5#32, true⟩ := by decide
theorem witness_WakeSetsLatches : (clean .p0).ready = true ∧
    ((clean .p0).port = .p0 → (clean .p0).bsq.state.busy = false) := by decide
theorem witness_WaitConsumesEventOrParks : (launched .p1).ready = true ∧
    ((launched .p1).port = .p0 → (launched .p1).bsq.state.busy = false) ∧
    (launched .p1).active.get (launched .p1).port = none := by decide
theorem witness_SequencerRegisterReads : written.ready = true ∧ written.port = .p0 ∧
    written.x.bsqVtor = ⟨0x20000100#32, true⟩ ∧ written.x.bsqSp = ⟨0x20003000#32, true⟩ ∧
    written.x.bsqEntry = ⟨0x10000200#32, true⟩ := by decide
theorem witness_SequencerRegisterWrites : (clean .p0).ready = true ∧ (clean .p0).port = .p0 ∧
    (clean .p0).bsq.state = .idle := by decide
theorem witness_GoStartsSequencer : written.ready = true ∧ written.port = .p0 ∧ written.bsq.state = .idle ∧
    written.x.bsqVtor = ⟨written.cfg.vtBase, true⟩ ∧ written.x.bsqSp.written = true ∧
    written.x.bsqEntry.written = true := by decide
theorem witness_SequencerStatusReads : (busyAt 3#3 .send).ready = true ∧ (busyAt 3#3 .send).port = .p0 := by decide
theorem witness_CoreOneStatusRead : (launched .p1).ready = true := by decide
theorem witness_LaunchRegisterReads : (launched .p1).ready = true ∧ (launched .p1).c1Running = true ∧
    (launched .p1).x.c1Vtor = ⟨0x20000100#32, true⟩ ∧ (launched .p1).x.c1Sp = ⟨0x20003000#32, true⟩ ∧
    (launched .p1).x.c1Pc = ⟨0x10000200#32, true⟩ := by decide
/-- Index 0, a configured index, and an unconfigured one at the end of the range. -/
theorem witness_TableReadReturnsHandler : (clean .p0).ready = true ∧ 0 < (clean .p0).cfg.nvec ∧
    (18 < (clean .p0).cfg.nvec ∧ ∃ e ∈ (clean .p0).cfg.handlers, e.1 = 18) ∧
    (47 < (clean .p0).cfg.nvec ∧ ∀ e ∈ (clean .p0).cfg.handlers, e.1 ≠ 47) := by decide
theorem witness_LineRegisterReads : pending.ready = true := by decide
theorem witness_EnableWrites : pending.ready = true := by decide
theorem witness_ConditionWriteClears : pending.ready = true := by decide
theorem witness_NotReadyFaults : State.reset.ready = false ∧ (port0Only .rdBsqSt = true → State.reset.port = .p0) ∧
    47 < State.reset.cfg.nvec := by decide
theorem witness_RightsRefusals : (clean .p1).port = .p1 ∧ (clean .p0).cfg.nvec ≤ 48 := by decide
theorem witness_SequencerLockout : (busyAt 3#3 .send).ready = true ∧ (busyAt 3#3 .send).port = .p0 ∧
    (busyAt 3#3 .send).bsq.state.busy = true ∧
    faultOf (exec .rdRx (busyAt 3#3 .send)) = some (.seqBusyLockout 0x0300000000#40) := by decide
theorem witness_MailboxMisuseFaults : (full0 .p0 5#32).ready = true ∧
    ((full0 .p0 5#32).port = .p0 → (full0 .p0 5#32).bsq.state.busy = false) ∧
    (full0 .p0 5#32).full.get (full0 .p0 5#32).port = true ∧
    (full0 .p0 5#32).full.get (full0 .p0 5#32).port.other = false ∧
    (inHandler 18).active.get (inHandler 18).port ≠ none := by decide
theorem witness_RegisterAccessFaults : (clean .p0).ready = true ∧ (clean .p0).c1Running = false ∧ (clean .p0).port = .p0 ∧
    (clean .p0).x.bsqVtor.written = false ∧ (clean .p0).x.bsqSp.written = false ∧
    (clean .p0).x.bsqEntry.written = false ∧ started.ready = true ∧ started.port = .p0 ∧
    started.bsq.state ≠ .idle := by decide
/-- One state for each branch. -/
theorem witness_GoFaults : started.ready = true ∧ started.port = .p0 ∧ started.bsq.state ≠ .idle ∧
    (clean .p0).ready = true ∧ (clean .p0).port = .p0 ∧ (clean .p0).x.bsqVtor.written = false ∧
    written.bsq.state = .idle ∧ written.x.bsqVtor.val = written.cfg.vtBase := by decide
theorem witness_StepRunsDecodedTransaction :
    (atLine (clean .p0) (.access 0x52#8 (.lit 0#32) (some 3))).cfg.wf = true ∧
    streamMayStep (atLine (clean .p0) (.access 0x52#8 (.lit 0#32) (some 3))) .p0 = true ∧
    evalOperand [] (.lit 0#32) = some 0#32 ∧ decode (wordOf 0x52#8 0#32) = .ok (.rdVdt 18) := by decide
theorem witness_StepRefusals : Config.wf { Config.reference with nvec := 65 } = false ∧
    (atLine State.reset (.access 0x02#8 (.lit 0#32) none)).cfg.wf = true ∧
    streamMayStep (atLine State.reset (.access 0x02#8 (.lit 0#32) none)) .p0 = true ∧
    decode (wordOf 0x02#8 0#32) = .error .readOfWriteOnly := by decide
theorem witness_HeldStepsChangeNothing : pending.cfg.wf = true ∧
    (pending.active.get .p0 = none ∧ dispatchEnabled pending .p0 = true) ∧
    (State.reset.cfg.wf = true ∧ State.reset.c1Running = false ∧ State.reset.ready = false) ∧
    (inHandler 18).active.get .p0 ≠ none ∧ (clean .p0).cond &&& (clean .p0).en.get .p0 = 0#32 ∧
    ((atLine State.reset (.exc 15)).ready = false ∧ 15 < State.reset.cfg.ncorex ∧
      (atLine State.reset (.exc 15)).streams.get .p0 = ⟨.line (.exc 15) .done, []⟩) := by decide
theorem witness_VectorFetchReadsTable : Config.reference.wf = true ∧ 47 < Config.reference.nvec := by decide
theorem witness_EdgeLatchesCondition : (clean .p0).cfg.wf = true ∧ 31 < nirq (clean .p0).cfg ∧
    (clean .p0).ready = true ∧ State.reset.ready = false := by decide
theorem witness_DispatchEntersLowestLine : Inv (scheduled pending (.dispatch .p0)) ∧
    dispatchEnabled (scheduled pending (.dispatch .p0)) .p0 = true := ⟨inv_pending, by decide⟩
theorem witness_ExceptionEntersHandler : (clean .p0).cfg.wf = true ∧ (clean .p0).ready = true ∧
    streamMayStep (atLine (clean .p0) (.exc 15)) .p0 = true ∧ 15 < (clean .p0).cfg.ncorex ∧
    (clean .p0).active.get .p0 = none ∧ streamMayStep (atLine (inHandler 18) (.exc 1)) .p0 = true ∧
    (inHandler 18).active.get .p0 ≠ none := by decide
theorem witness_HandlerReturnRestores : (inHandler 18).cfg.wf = true ∧ (inHandler 18).active.get .p0 = some 18 ∧
    ((inHandler 18).streams.get .p0).script = .done ∧
    hkind (inHandler 18).cfg (vdt (inHandler 18).cfg 18) ≠ some .trapLoop := by decide
theorem witness_UnclearedLineReenters :
    hretEnabled { inHandler 19 with cond := 8#32, en := ⟨8#32, 0#32⟩ } .p0 = true ∧
    coreRuns (inHandler 19) .p0 = true ∧ (inHandler 19).ready = true := by decide
theorem witness_TrapLoopNeverLeft : Inv (scheduled (inHandler 47) (.trap .p0)) ∧
    inTrapLoop (scheduled (inHandler 47) (.trap .p0)) .p0 = true ∧
    ∃ t, step (scheduled (inHandler 47) (.trap .p0)) = .next t := ⟨inv_handler, by decide, _, rfl⟩
theorem witness_WaitResumeConsumesEvent : (launched .p0).cfg.wf = true ∧
    (scheduled (launched .p0) (.waitResume .p1)).schedule = [.waitResume .p1] := by decide
theorem witness_SequencerDrainAndWake : started.cfg.wf = true ∧ started.ready = true ∧ started.bsq.state.busy = true ∧
    started.bsq.phase = .drain ∧ started.full.c1 = false ∧ (busyAt 1#3 .wake).bsq.phase = .wake ∧
    (busyAt 5#3 .sendWake).bsq.phase = .sendWake ∧
    (stale.cfg.wf = true ∧ stale.ready = true ∧ stale.bsq.state.busy = true ∧ stale.bsq.phase = .drain ∧
      stale.full.c1 = true ∧ stale.x.slot1 = ⟨0x77#32, true⟩) := by decide
theorem witness_SequencerSendsCommand : Inv (scheduled (busyAt 5#3 .send) .bsqStep) ∧
    (busyAt 5#3 .send).ready = true ∧ (busyAt 5#3 .send).bsq.state.busy = true ∧
    (busyAt 5#3 .send).full.c0 = false := ⟨inv_send, by decide⟩
/-- An empty slot, the expected acknowledgement, and another word. -/
theorem witness_SequencerReceivesAcknowledgement :
    (Inv (busyAt 2#3 .recv) ∧ (busyAt 2#3 .recv).full.c1 = false ∧ (busyAt 2#3 .recv).bsq.state.busy = true) ∧
    (Inv (answered 1#32) ∧ (answered 1#32).full.c1 = true ∧
      (answered 1#32).x.slot1.val = ackFor (answered 1#32).cfg 2#3 (commandWord (answered 1#32) 2#3)) ∧
    (Inv (answered 9#32) ∧ (answered 9#32).full.c1 = true ∧
      (answered 9#32).x.slot1.val ≠ ackFor (answered 9#32).cfg 2#3 (commandWord (answered 9#32) 2#3)) :=
  ⟨⟨inv_recv, by decide⟩, ⟨inv_match, by decide⟩, inv_mismatch, by decide⟩
theorem witness_ResponderReceives : (full0 .p0 0#32).cfg.wf = true ∧ (full0 .p0 0#32).ready = true ∧
    (full0 .p0 0#32).c1Running = false ∧ (full0 .p0 0#32).cfg.peer = .pbl ∧ (full0 .p0 0#32).pbl.phase = .recv ∧
    (full0 .p0 0#32).full.c0 = true ∧ (full0 .p0 0#32).x.slot0 = ⟨0#32, true⟩ ∧
    (clean .p0).full.c0 = false := by decide
theorem witness_ResponderAcknowledges : (clean .p0).cfg.wf = true ∧ (clean .p0).ready = true ∧
    (clean .p0).c1Running = false ∧ (clean .p0).cfg.peer = .pbl ∧ (clean .p0).full.c1 = false ∧
    (full1 .p0 5#32).full.c1 = true := by decide
theorem witness_LaunchStartsCoreOne : (launched .p0).cfg.wf = true ∧ (launched .p0).ready = true ∧
    (launched .p0).cfg.peer = .pbl ∧ (launched .p0).x.c1Vtor = ⟨0x20000100#32, true⟩ ∧
    (launched .p0).x.c1Sp = ⟨0x20003000#32, true⟩ ∧ (launched .p0).x.c1Pc = ⟨0x10000200#32, true⟩ := by decide
theorem witness_ResetAndReadiness : (launched .p0).cfg.wf = true ∧ State.reset.cfg.wf = true := by decide
theorem witness_ReportOnlyRecords : (atLine (clean .p0) (.report (.lit 5#32))).cfg.wf = true ∧
    streamMayStep (atLine (clean .p0) (.report (.lit 5#32))) .p0 = true ∧
    evalOperand [] (.lit 5#32) = some 5#32 := by decide
theorem witness_SimulatedPeerOnPortOne : (clean .p0).cfg.wf = true ∧ (clean .p0).c1Running = false ∧
    Config.wf { Config.reference with peer := .env } = true := by decide
theorem witness_StepKeepsInvariants : Inv (scheduled pending (.dispatch .p0)) ∧
    ∃ t, step (scheduled pending (.edge 2)) = .next t := ⟨inv_pending, _, rfl⟩
theorem witness_ResetMeetsInvariants : Config.reference.wf = true ∧ Config.wf { Config.reference with nvec := 24 } = true := by
  decide
/-- A run that pops. -/
theorem witness_MailboxIsFifo : Event.reset ∉ (scheduled (full0 .p0 0#32) .pblStep).schedule ∧
    ∃ t, Runs (scheduled (full0 .p0 0#32) .pblStep) t ∧ t.full.c0 = false :=
  ⟨by decide, _, .next (.refl _) rfl, rfl⟩
theorem witness_HandshakeStaysInStep : HandshakeInStep (scheduled started .bsqStep) ∧
    ∃ t, step (scheduled started .bsqStep) = .next t := ⟨inStep_started, _, rfl⟩
theorem witness_GoStartsHandshakeInStep : Inv written ∧ written.ready = true ∧ written.port = .p0 ∧
    written.cfg.peer = .pbl ∧ CleanMailbox written ∧ SeqIdle written ∧ PeerHalted written ∧
    written.x.bsqVtor = ⟨written.cfg.vtBase, true⟩ := ⟨inv_written, by decide⟩
theorem witness_HandshakeProgresses : HandshakeInStep started ∧ started.ready = true ∧
    ¬ (started.bsq.state = .peerRunning ∧ started.c1Running = true) := ⟨inStep_started, by decide⟩
theorem witness_HandshakeDeliversWords : HandshakeInStep (launched .p0) ∧ (launched .p0).bsq.state = .peerRunning ∧
    (launched .p0).c1Running = true := ⟨inStep_launched, by decide⟩
/-- The launch, the reset of a running core 1, and core 1's own step while it is halted. -/
theorem witness_CoreOneRunsOnlyByLaunch :
    (∃ t, step (scheduled { launched .p0 with c1Running := false, pbl := ⟨6#3, .launch, 0#32⟩ } .pblStep) = .next t ∧
      t.c1Running = true) ∧
    (∃ t, step (scheduled (launched .p0) .reset) = .next t ∧ t.c1Running = false) ∧
    (∃ t, step (scheduled (clean .p0) (.core .p1)) = .next t ∧ (clean .p0).c1Running = false) :=
  ⟨⟨_, rfl, rfl⟩, ⟨_, rfl, rfl⟩, _, rfl, rfl⟩
theorem witness_FullFlagFollowsPushPop :
    (∃ t, step (scheduled (full0 .p0 0#32) .pblStep) = .next t ∧ (full0 .p0 0#32).full.get .p0 = true ∧
      t.full.get .p0 = false) ∧
    (∃ t, step (scheduled (busyAt 5#3 .send) .bsqStep) = .next t ∧ (busyAt 5#3 .send).full.get .p0 = false ∧
      t.full.get .p0 = true) := ⟨⟨_, rfl, rfl, rfl⟩, _, rfl, rfl, rfl⟩
theorem witness_SequencerNeverRewinds : Inv (scheduled (answered 1#32) .bsqStep) ∧
    (∃ t, step (scheduled (answered 1#32) .bsqStep) = .next t ∧ t.bsq.k = 3#3) ∧
    (∃ t, step (scheduled (launched .p0) .bsqStep) = .next t) ∧ (launched .p0).bsq.state = .peerRunning :=
  ⟨inv_match, ⟨_, rfl, rfl⟩, ⟨_, rfl⟩, rfl⟩
theorem witness_OnlyAnEventEndsAWait :
    ∃ t, step (scheduled { launched .p0 with parked := ⟨false, true⟩, evt := ⟨false, true⟩ } (.waitResume .p1)) = .next t ∧
      t.parked.get .p1 = false := ⟨_, rfl, rfl⟩
theorem witness_TransactionReachesOwnBank : ∃ t, exec (.wrIrqEn 5#32) (launched .p1) = .next t := ⟨_, rfl⟩
/-- A condition set by its edge and one cleared by `WR.IRQ_ST`. -/
theorem witness_ConditionSetByEdgeOnly :
    (∃ t, step (scheduled (clean .p0) (.edge 31)) = .next t ∧ (clean .p0).cond.getLsbD 31 = false ∧
      t.cond.getLsbD 31 = true) ∧
    (∃ t, step (atLine { clean .p0 with cond := 4#32 } (.access 0x94#8 (.lit 4#32) none)) = .next t ∧
      t.cond.getLsbD 2 = false) := ⟨⟨_, rfl, rfl, rfl⟩, _, rfl, rfl⟩
theorem witness_LaunchConstantsStay : (∃ t, step (scheduled started .bsqStep) = .next t) ∧
    started.bsq.state ≠ .idle := ⟨⟨_, rfl⟩, by decide⟩

end Sys2Proof.Tests
end

section
/-! SUPPORT. What one step of the machine can do to the block, said once for every event: `StepEffect` lists the
effects, each with what it requires, and `step_effect` says that every step that answers a next state has one of them.
An invariant or a frame rule of the whole machine is then a case split over the effects. -/

namespace Sys2Proof.Machine

/-- The state without what belongs to the issuing cores alone: their streams, saved points and program counters, the
port and the returned word of the last transaction, the interleaving, the counter of free values. -/
def State.block (s : State) : State :=
  { s with
    resume := ⟨⟨0#32, .empty⟩, ⟨0#32, .empty⟩⟩, pc := ⟨0#32, 0#32⟩, streams := ⟨.empty, .empty⟩
    schedule := [], port := .p0, rdata := none, fresh := 0 }

/-- What is read off the block alone is the same in two states with the same block. -/
theorem eq_of_block_eq {α : Sort*} (f : State → α) {t u : State} (h : t.block = u.block)
    (hf : ∀ s : State, f s.block = f s := by intro; rfl) : f t = f u := by
  rw [← hf t, h, hf u]

/-- The next event is the step of a core whose stream stands at a word that decodes to `i` (R91, R101). -/
def IssuesNext (o : Option Event) (s : State) (i : Instr) : Prop :=
  ∃ (c : Port) (opcode : BitVec 8) (data : Operand) (dst : Option Name) (rest : Script) (v : Word),
    o = some (.core c) ∧ (s.streams.get c).script = .line (.access opcode data dst) rest ∧
      evalOperand (s.streams.get c).names data = some v ∧ decode (wordOf opcode v) = .ok i

/-- The index a handler of core `c` is entered with: that of a core exception (R266), or of a pending enabled line
(R262). -/
def EntryIndex (s : State) (c : Port) (idx : Nat) : Prop :=
  (1 ≤ idx ∧ idx < s.cfg.ncorex) ∨ ∃ n, idx = s.cfg.ncorex + n ∧ (pendingLines s c).getLsbD n = true

/-- The registers after the responder has kept the word `w` of step `k` (R171): core 1's three at the steps 3 to 5. -/
def capturedRegs (x : WordRegs) (k : BitVec 3) (w : Word) : WordRegs :=
  { x with
    c1Vtor := if k = 3#3 then ⟨w, true⟩ else x.c1Vtor
    c1Sp := if k = 4#3 then ⟨w, true⟩ else x.c1Sp
    c1Pc := if k = 5#3 then ⟨w, true⟩ else x.c1Pc }

theorem capture_eq_capturedRegs (s : State) (w : Word) : s.capture w = { s with x := capturedRegs s.x s.pbl.k w } :=
  capture_eq s w

/-- What a step of the event `o` can make of the block, and what it requires: the effects of reset, readiness and the
interrupts (R260 to R267, R300, R303), of the transactions (R121 to R127, R142 to R147, R195 to R200), of the sequencer
(`seq`, R153 to R158) and of the responder (`resp`, R171 to R176). -/
inductive StepEffect (o : Option Event) (s : State) : State → Prop where
  | still : StepEffect o s s
  | reset (ho : o = some .reset) : StepEffect o s (resetState s)
  | readyUp : StepEffect o s { s with ready := true }
  | edge (n : Nat) (ho : o = some (.edge n)) (hn : n < nirq s.cfg) :
      StepEffect o s { s with cond := s.cond ||| (1#32 <<< n), hist := s.hist ++ [.edge n] }
  | enter (c : Port) (idx : Nat) (handler : Word) (hrun : coreRuns s c = true) (hidx : EntryIndex s c idx) :
      StepEffect o s { s with active := s.active.set c (some idx), hist := s.hist ++ [.dispatch c idx handler] }
  | leave (c : Port) : StepEffect o s { s with active := s.active.set c none, hist := s.hist ++ [.ret c] }
  | unpark (c : Port) (ho : o = some (.waitResume c)) (he : waitResumeEnabled s c = true) :
      StepEffect o s { s with evt := s.evt.set c false, parked := s.parked.set c false }
  | report (c : Port) (v : Word) : StepEffect o s (s.report c v)
  | tx (p : Port) (v : Word) (hlock : p = .p0 → s.bsq.state.busy = false) (hclear : s.full.get p = false) :
      StepEffect o s (s.push p v)
  | rx (p : Port) (v : Word) (hlock : p = .p0 → s.bsq.state.busy = false) (hfull : s.full.get p.other = true)
      (hv : s.x.get (slotOf p.other) = ⟨v, true⟩) : StepEffect o s (s.pop p.other v)
  | wake (p : Port) : StepEffect o s (s.wake (.core p))
  | consume (p : Port) : StepEffect o s { s with evt := s.evt.set p false }
  | park (p : Port) (hrun : coreRuns s p = true) (ha : s.active.get p = none) :
      StepEffect o s { s with parked := s.parked.set p true }
  | writeSeq (r : RegName) (v : Word) (hr : r = .bsqVtor ∨ r = .bsqSp ∨ r = .bsqEntry) (hi : s.bsq.state = .idle) :
      StepEffect o s (s.writeReg r v)
  | go (hi : s.bsq.state = .idle) (hvt : s.x.bsqVtor = ⟨s.cfg.vtBase, true⟩) (hsp : s.x.bsqSp.written = true)
      (hentry : s.x.bsqEntry.written = true) : StepEffect o s { s with bsq := startedSequencer s.bsq }
  | enable (p : Port) (v : Word) (hv : v &&& ~~~maskIrq s.cfg = 0#32 ∨ v &&& ~~~(s.en.get p) = 0#32) :
      StepEffect o s { s with en := s.en.set p v }
  | clear (d : Word) (hi : IssuesNext o s (.wrIrqSt d)) : StepEffect o s { s with cond := s.cond &&& ~~~d }
  | seqDrain (hb : s.bsq.state.busy = true) (hp : s.bsq.phase = .drain) (hfull : s.full.c1 = true) :
      StepEffect o s (s.pop .p1 s.x.slot1.val)
  | seqDrained (hb : s.bsq.state.busy = true) (hp : s.bsq.phase = .drain) (hclear : s.full.c1 = false) :
      StepEffect o s (s.bsqPhase .wake)
  | seqWake (hb : s.bsq.state.busy = true) (hp : s.bsq.phase = .wake) :
      StepEffect o s ((s.wake .bsq).bsqPhase .send)
  | seqSend (w : Word) (hb : s.bsq.state.busy = true) (hp : s.bsq.phase = .send) (hclear : s.full.c0 = false)
      (hw : IsCommand s w) : StepEffect o s ((s.push .p0 w).bsqPhase .sendWake)
  | seqSendWake (hb : s.bsq.state.busy = true) (hp : s.bsq.phase = .sendWake) :
      StepEffect o s ((s.wake .bsq).bsqPhase .recv)
  | seqMatch (w : Word) (hb : s.bsq.state.busy = true) (hp : s.bsq.phase = .recv) (hfull : s.full.c1 = true)
      (hk : s.bsq.k.toNat ≤ 5) (hw : IsCommand s w) (ha : s.x.slot1.val = ackFor s.cfg s.bsq.k w) :
      StepEffect o s { s.pop .p1 s.x.slot1.val with bsq := advancedSequencer s.bsq }
  | seqMismatch (w : Word) (hb : s.bsq.state.busy = true) (hp : s.bsq.phase = .recv) (hfull : s.full.c1 = true)
      (hk : s.bsq.k.toNat ≤ 5) (hw : IsCommand s w) (ha : s.x.slot1.val ≠ ackFor s.cfg s.bsq.k w) :
      StepEffect o s ({ s.pop .p1 s.x.slot1.val with bsq := resendingSequencer s.bsq }.log (.resend s.bsq.k))
  | respReceive (hrun : s.c1Running = false) (hpeer : s.cfg.peer = .pbl) (hp : s.pbl.phase = .recv)
      (hfull : s.full.c0 = true)
      (hw : expectedWord s.pbl.k = none ∨ expectedWord s.pbl.k = some s.x.slot0.val) :
      StepEffect o s { s.pop .p0 s.x.slot0.val with
        x := capturedRegs s.x s.pbl.k s.x.slot0.val
        pbl := { s.pbl with w := s.x.slot0.val, phase := .ack } }
  | respAck (hrun : s.c1Running = false) (hpeer : s.cfg.peer = .pbl) (hp : s.pbl.phase = .ack)
      (hclear : s.full.c1 = false) :
      StepEffect o s { s.push .p1 (ackFor s.cfg s.pbl.k s.pbl.w) with pbl := { s.pbl with phase := .ackWake } }
  | respAckWake (hrun : s.c1Running = false) (hpeer : s.cfg.peer = .pbl) (hp : s.pbl.phase = .ackWake) :
      StepEffect o s { s.wake .pbl with
        pbl := { s.pbl with k := s.pbl.k + 1#3, phase := if s.pbl.k + 1#3 = 6#3 then .launch else .recv } }
  | respLaunch (ho : o = some .pblStep) (hrun : s.c1Running = false) (hpeer : s.cfg.peer = .pbl)
      (hp : s.pbl.phase = .launch) (hvt : s.x.c1Vtor = ⟨s.cfg.vtBase, true⟩) (hsp : s.x.c1Sp.written = true)
      (hpc : s.x.c1Pc.written = true) :
      StepEffect o s { s with
        c1Running := true
        pbl := { s.pbl with phase := .recv }
        hist := s.hist ++ [.launch s.x.c1Vtor.val s.x.c1Sp.val s.x.c1Pc.val] }

/-- The step from `s` to `t` makes of the block what one of the effects of `o` makes of it. -/
def HasEffect (o : Option Event) (s t : State) : Prop := ∃ u, StepEffect o s u ∧ t.block = u.block

/-- A stream that may step belongs to a core that runs (R29, R264). -/
theorem coreRuns_of_streamMayStep {s : State} {c : Port} (h : streamMayStep s c = true) : coreRuns s c = true := by
  simp only [streamMayStep, Bool.and_eq_true] at h
  exact h.1

/-- A dispatch is enabled only on a core that runs (R29, R262). -/
theorem coreRuns_of_dispatchEnabled {s : State} {c : Port} (h : dispatchEnabled s c = true) : coreRuns s c = true := by
  simp only [dispatchEnabled, Bool.and_eq_true] at h
  exact h.1.1.2

section
variable {o : Option Event} {s t : State} {later : List Event}

/-- A held step has no effect. -/
theorem HasEffect.of_hold (h : t = { s with schedule := later }) : HasEffect o s t := ⟨s, .still, by rw [h]; rfl⟩

/-- The effect of a transaction on port `c`. A wait parks only a core that runs, and only a core's own stream carries
`WR.IRQ_ST`: what the two issuers of transactions have to show. -/
theorem exec_effect {c : Port} {i : Instr} (h : exec i { s with schedule := later, port := c } = .next t)
    (hwait : ∀ d, i = .wrWait d → coreRuns s c = true) (hclear : ∀ d, i = .wrIrqSt d → IssuesNext o s i) :
    HasEffect o s t := by
  obtain ⟨v, rfl⟩ | ⟨d, -, hlock, hf, rfl⟩ | ⟨v, -, hlock, hf, hv, rfl⟩ | ⟨d, -, rfl⟩ | ⟨d, -, -, -, rfl⟩ |
    ⟨d, hi, ha, -, rfl⟩ | ⟨r, d, hr, hi, rfl⟩ | ⟨-, hi, hvt, hsp, he, rfl⟩ | ⟨v, hv, rfl⟩ | ⟨d, hi, rfl⟩ := exec_next h
  · exact ⟨_, .still, rfl⟩
  · exact ⟨_, .tx c d hlock hf, rfl⟩
  · exact ⟨_, .rx c v hlock hf hv, rfl⟩
  · exact ⟨_, .wake c, rfl⟩
  · exact ⟨_, .consume c, rfl⟩
  · exact ⟨_, .park c (hwait d hi) ha, rfl⟩
  · exact ⟨_, .writeSeq r d hr hi, rfl⟩
  · exact ⟨_, .go hi hvt hsp he, rfl⟩
  · exact ⟨_, .enable c v hv, rfl⟩
  · exact ⟨_, .clear d (hi ▸ hclear d hi), rfl⟩

/-- Taking a handler on a running core, with a legal index, from any point of its stream. -/
theorem enterHandler_effect {c : Port} {idx : Nat} {streams : Pair Stream}
    (h : enterHandler c idx { s with schedule := later, streams := streams } = .next t) (hrun : coreRuns s c = true)
    (hidx : EntryIndex s c idx) : HasEffect o s t := by
  obtain ⟨handler, kind, -, -, rfl⟩ := enterHandler_next h
  exact ⟨_, .enter c idx handler hrun hidx, rfl⟩

/-- A dispatch enters the handler of a pending enabled line. -/
theorem dispatch_effect {c : Port} (h : dispatch c { s with schedule := later } = .next t) : HasEffect o s t := by
  obtain ⟨-, ht⟩ | ⟨he, n, hn, h⟩ := dispatch_next h
  · exact .of_hold ht
  · exact enterHandler_effect h (coreRuns_of_dispatchEnabled he) (.inr ⟨n, rfl, (lowbit_some hn).2.1⟩)

/-- A core exception enters the handler of its own index. -/
theorem exception_effect {c : Port} {e : Nat} {rest : Script}
    (h : exception c e rest { s with schedule := later } = .next t) : HasEffect o s t := by
  obtain ⟨he1, he2, ⟨-, ht⟩ | ⟨-, hrun, -, h⟩⟩ := exception_next h
  · exact .of_hold ht
  · exact enterHandler_effect h hrun (.inl ⟨he1, he2⟩)

/-- A core's own step: a transaction on its port, a core exception, a report, or a control form without effect. -/
theorem coreStep_effect {c : Port} (h : coreStep c { s with schedule := later } = .next t) :
    HasEffect (some (.core c)) s t := by
  obtain ht | ⟨hm, ⟨opcode, data, dst, rest, v, i, u, hs, hv, hd, hu, rfl⟩ | ⟨e, rest, h⟩ | ⟨v, rest, names, rfl⟩ |
    ⟨rest, names, rfl⟩⟩ := coreStep_next h
  · exact .of_hold ht
  · have hx : HasEffect (some (.core c)) s u := exec_effect hu (fun _ _ => coreRuns_of_streamMayStep hm)
      (fun _ _ => ⟨c, opcode, data, dst, rest, v, rfl, hs, hv, hd⟩)
    exact hx
  · exact exception_effect h
  · exact ⟨_, .report c v, rfl⟩
  · exact ⟨_, .still, rfl⟩

/-- The simulated peer's transactions are no wait and no `WR.IRQ_ST` (R177). -/
theorem envStep_effect {op : EnvOp} (h : envStep op { s with schedule := later } = .next t) : HasEffect o s t := by
  obtain ht | ⟨-, -, h⟩ := envStep_next h
  · exact .of_hold ht
  · exact exec_effect h (fun d hi => by cases op <;> cases hi) (fun d hi => by cases op <;> cases hi)

theorem bsqStep_effect (h : bsqStep { s with schedule := later } = .next t) : HasEffect o s t := by
  obtain ht | ⟨-, hb, ⟨hp, hf, -, rfl⟩ | ⟨hp, hf, rfl⟩ | ⟨hp, rfl⟩ | ⟨hp, hf, -, w, hw, rfl⟩ | ⟨hp, rfl⟩ |
    ⟨hp, hf, -, hk, w, hw, ⟨ha, rfl⟩ | ⟨ha, rfl⟩⟩⟩ := bsqStep_next h
  · exact .of_hold ht
  · exact ⟨_, .seqDrain hb hp hf, rfl⟩
  · exact ⟨_, .seqDrained hb hp hf, rfl⟩
  · exact ⟨_, .seqWake hb hp, rfl⟩
  · exact ⟨_, .seqSend w hb hp hf hw, rfl⟩
  · exact ⟨_, .seqSendWake hb hp, rfl⟩
  · exact ⟨_, .seqMatch w hb hp hf hk hw ha, rfl⟩
  · exact ⟨_, .seqMismatch w hb hp hf hk hw ha, rfl⟩

theorem pblStep_effect (h : pblStep { s with schedule := later } = .next t) : HasEffect (some .pblStep) s t := by
  obtain ht | ⟨-, hrun, hpeer, ⟨hp, hf, -, hw, rfl⟩ | ⟨hp, hf, rfl⟩ | ⟨hp, rfl⟩ | ⟨hp, hvt, hsp, hpc, rfl⟩⟩ :=
    pblStep_next h
  · exact .of_hold ht
  · exact ⟨_, .respReceive hrun hpeer hp hf hw, by rw [capture_eq_capturedRegs]; rfl⟩
  · exact ⟨_, .respAck hrun hpeer hp hf, rfl⟩
  · exact ⟨_, .respAckWake hrun hpeer hp, rfl⟩
  · exact ⟨_, .respLaunch rfl hrun hpeer hp hvt hsp hpc, rfl⟩

/-- Every event that answers a next state has one of the effects. -/
theorem runEvent_effect {e : Event} (h : runEvent e { s with schedule := later } = .next t) :
    HasEffect (some e) s t := by
  cases e with
  | reset =>
    cases h
    exact ⟨_, .reset rfl, rfl⟩
  | readyUp =>
    obtain ⟨-, ht⟩ | ⟨-, rfl⟩ := readyUp_next h
    · exact .of_hold ht
    · exact ⟨_, .readyUp, rfl⟩
  | edge n =>
    obtain ht | ⟨-, hn, rfl⟩ := edge_next h
    · exact .of_hold ht
    · exact ⟨_, .edge n rfl hn, rfl⟩
  | dispatch c => exact dispatch_effect h
  | hret c =>
    obtain ⟨-, ht⟩ | ⟨-, rfl⟩ := hret_next h
    · exact .of_hold ht
    · exact ⟨_, .leave c, rfl⟩
  | trap c =>
    cases (trap_eq c _).symm.trans h
    exact .of_hold rfl
  | waitResume c =>
    obtain ⟨-, ht⟩ | ⟨he, rfl⟩ := waitResume_next h
    · exact .of_hold ht
    · exact ⟨_, .unpark c rfl he, rfl⟩
  | bsqStep => exact bsqStep_effect h
  | pblStep => exact pblStep_effect h
  | env op => exact envStep_effect h
  | core c => exact coreStep_effect h

/-- Every step that answers a next state has one of the effects of its event. -/
theorem step_effect (h : step s = .next t) : HasEffect s.schedule.head? s t := by
  obtain ⟨-, ⟨hs, rfl⟩ | ⟨e, later, hs, h⟩⟩ := step_next h
  · exact ⟨t, .still, rfl⟩
  · rw [hs]
    exact runEvent_effect h

end

end Sys2Proof.Machine
end

section
/-! SUPPORT. What a step does to the two slots, their full flags and the history: the part of `StepEffect` that the
rules about the mailbox and the history need. -/

namespace Sys2Proof.Machine

variable {o : Option Event} {s t u : State}

/-! ### Slots, full flags and history -/

/-- An entry of the history that records a push or a pop (R36). -/
def HistEntry.isTransfer : HistEntry → Bool
  | .push _ _ => true
  | .pop _ _ => true
  | _ => false

/-- What a step but `RESET` can make of the slots, their full flags and the history (R25, R36): a push, a pop with the
record of a resend behind it (R158), or neither, with other records only. -/
inductive MailboxMove (s u : State) : Prop where
  | push (d : Port) (v : Word) (hclear : s.full.get d = false) (hfull : u.full = s.full.set d true)
      (hslot : ∀ q, u.x.get (slotOf q) = if q = d then ⟨v, true⟩ else s.x.get (slotOf q))
      (hhist : u.hist = s.hist ++ [.push d v])
  | pop (d : Port) (new : List HistEntry) (hset : s.full.get d = true) (hfull : u.full = s.full.set d false)
      (hslot : ∀ q, u.x.get (slotOf q) = s.x.get (slotOf q)) (hnew : ∀ e ∈ new, e.isTransfer = false)
      (hhist : u.hist = s.hist ++ .pop d (s.x.get (slotOf d)).val :: new)
  | neither (new : List HistEntry) (hfull : u.full = s.full)
      (hslot : ∀ q, u.x.get (slotOf q) = s.x.get (slotOf q)) (hnew : ∀ e ∈ new, e.isTransfer = false)
      (hhist : u.hist = s.hist ++ new)

/-- A push writes its own slot and no other. -/
theorem WordRegs.get_slot_write_slot (x : WordRegs) (d q : Port) (v : Word) :
    (x.write (slotOf d) v).get (slotOf q) = if q = d then ⟨v, true⟩ else x.get (slotOf q) := by
  simp [WordRegs.get_write, slotOf_inj]

/-- A write of a sequencer register leaves the slots. -/
theorem WordRegs.get_slot_write_seq (x : WordRegs) {r : RegName} (q : Port) (v : Word)
    (hr : r = .bsqVtor ∨ r = .bsqSp ∨ r = .bsqEntry) : (x.write r v).get (slotOf q) = x.get (slotOf q) := by
  refine WordRegs.get_write_ne x v ?_
  rcases hr with rfl | rfl | rfl <;> cases q <;> decide

/-- What the responder keeps for core 1 leaves the slots. -/
theorem capturedRegs_slot (x : WordRegs) (k : BitVec 3) (w : Word) (q : Port) :
    (capturedRegs x k w).get (slotOf q) = x.get (slotOf q) := by
  cases q <;> rfl

/-- A step that leaves slots and full flags and records nothing. -/
theorem MailboxMove.of_unrecorded (hfull : u.full = s.full) (hslot : ∀ q, u.x.get (slotOf q) = s.x.get (slotOf q))
    (hhist : u.hist = s.hist) : MailboxMove s u :=
  .neither [] hfull hslot (by simp) (by simp [hhist])

/-- A step that leaves slots and full flags and records one entry that is no transfer. -/
theorem MailboxMove.of_recorded (e : HistEntry) (he : e.isTransfer = false) (hfull : u.full = s.full)
    (hx : u.x = s.x) (hhist : u.hist = s.hist ++ [e]) : MailboxMove s u :=
  .neither [e] hfull (by simp [hx]) (by simpa using he) hhist

theorem StepEffect.mailboxMove (he : StepEffect o s u) (hr : o ≠ some .reset) : MailboxMove s u := by
  cases he with
  | reset ho => exact absurd ho hr
  | tx p v hlock hclear => exact .push p v hclear rfl (s.x.get_slot_write_slot p · v) rfl
  | seqSend w hb hp hclear => exact .push .p0 w hclear rfl (s.x.get_slot_write_slot .p0 · w) rfl
  | respAck hrun hpeer hp hclear => exact .push .p1 _ hclear rfl (s.x.get_slot_write_slot .p1 · _) rfl
  | rx p v hlock hset hv => exact .pop p.other [] hset rfl (fun _ => rfl) (by simp) (by rw [hv]; rfl)
  | seqDrain hb hp hset => exact .pop .p1 [] hset rfl (fun _ => rfl) (by simp) rfl
  | seqMatch w hb hp hset => exact .pop .p1 [] hset rfl (fun _ => rfl) (by simp) rfl
  | seqMismatch w hb hp hset =>
    exact .pop .p1 [.resend s.bsq.k] hset rfl (fun _ => rfl) (by simp [HistEntry.isTransfer])
      (List.append_assoc _ _ _)
  | respReceive hrun hpeer hp hset => exact .pop .p0 [] hset rfl (capturedRegs_slot _ _ _) (by simp) rfl
  | writeSeq r v hseq => exact .of_unrecorded rfl (s.x.get_slot_write_seq · v hseq) rfl
  | edge n => exact .of_recorded (.edge n) rfl rfl rfl rfl
  | enter c idx handler => exact .of_recorded (.dispatch c idx handler) rfl rfl rfl rfl
  | leave c => exact .of_recorded (.ret c) rfl rfl rfl rfl
  | report c v => exact .of_recorded (.report c v) rfl rfl rfl rfl
  | wake p => exact .of_recorded (.wake (.core p)) rfl rfl rfl rfl
  | seqWake => exact .of_recorded (.wake .bsq) rfl rfl rfl rfl
  | seqSendWake => exact .of_recorded (.wake .bsq) rfl rfl rfl rfl
  | respAckWake => exact .of_recorded (.wake .pbl) rfl rfl rfl rfl
  | respLaunch => exact .of_recorded (.launch _ _ _) rfl rfl rfl rfl
  | still | readyUp | unpark | consume | park | go | enable | clear | seqDrained =>
    exact .of_unrecorded rfl (fun _ => rfl) rfl

/-- The step's move, with its end state in place of the effect's. -/
theorem MailboxMove.of_block_eq (hm : MailboxMove s u) (hb : t.block = u.block) : MailboxMove s t := by
  have hfull : t.full = u.full := eq_of_block_eq State.full hb
  have hx : t.x = u.x := eq_of_block_eq State.x hb
  have hhist : t.hist = u.hist := eq_of_block_eq State.hist hb
  cases hm with
  | push d v hclear hf hs hh =>
    exact .push d v hclear (hfull.trans hf) (fun q => hx ▸ hs q) (hhist.trans hh)
  | pop d new hset hf hs hn hh =>
    exact .pop d new hset (hfull.trans hf) (fun q => hx ▸ hs q) hn (hhist.trans hh)
  | neither new hf hs hn hh =>
    exact .neither new (hfull.trans hf) (fun q => hx ▸ hs q) hn (hhist.trans hh)

/-- What a step but `RESET` makes of the slots, their full flags and the history. -/
theorem step_mailboxMove (h : step s = .next t) (hr : s.schedule.head? ≠ some .reset) : MailboxMove s t := by
  obtain ⟨u, he, hb⟩ := step_effect h
  exact (he.mailboxMove hr).of_block_eq hb

end Sys2Proof.Machine
end

section
/-! SUPPORT. The invariants of R49: each one is kept by every effect of a step, and all of them hold after reset. One
lemma per invariant; the cases written out are the effects that touch the elements it speaks of. -/

namespace Sys2Proof.Machine

variable {o : Option Event} {s t u : State}

/-! ### Words and registers -/

/-- Steps 0 to 5 by value. -/
theorem bootStep_cases {k : BitVec 3} (h : k ≤ 5#3) :
    k = 0#3 ∨ k = 1#3 ∨ k = 2#3 ∨ k = 3#3 ∨ k = 4#3 ∨ k = 5#3 := by
  revert k
  decide

/-- A word lies within a mask exactly when every bit set in it is set in the mask. -/
theorem masked_iff {v m : Word} : v &&& ~~~m = 0#32 ↔ ∀ n, v.getLsbD n = true → m.getLsbD n = true := by
  constructor
  · intro h n hv
    have hn : n < 32 := BitVec.lt_of_getLsbD hv
    simpa [hv, hn] using congrArg (BitVec.getLsbD · n) h
  · intro h
    apply BitVec.eq_of_getLsbD_eq
    intro n hn
    cases hv : v.getLsbD n with
    | false => simp [hv]
    | true => simp [hv, h n hv]

/-- A word within a word that lies within a mask lies within the mask. -/
theorem masked_trans {v w m : Word} (hv : v &&& ~~~w = 0#32) (hw : w &&& ~~~m = 0#32) : v &&& ~~~m = 0#32 :=
  masked_iff.mpr fun n h => masked_iff.mp hw n (masked_iff.mp hv n h)

/-- Writing a slot leaves the sequencer's three registers (R18, R20). -/
theorem WordRegs.write_slot_bsqWords (x : WordRegs) (d : Port) (v : Word) :
    (x.write (slotOf d) v).bsqVtor = x.bsqVtor ∧ (x.write (slotOf d) v).bsqSp = x.bsqSp ∧
      (x.write (slotOf d) v).bsqEntry = x.bsqEntry := by
  cases d <;> exact ⟨rfl, rfl, rfl⟩

/-- Writing a slot leaves core 1's three registers. -/
theorem WordRegs.write_slot_launchWords (x : WordRegs) (d : Port) (v : Word) :
    (x.write (slotOf d) v).c1Vtor = x.c1Vtor ∧ (x.write (slotOf d) v).c1Sp = x.c1Sp ∧
      (x.write (slotOf d) v).c1Pc = x.c1Pc := by
  cases d <;> exact ⟨rfl, rfl, rfl⟩

/-- Writing a register of the sequencer leaves core 1's three. -/
theorem WordRegs.write_seq_launchWords (x : WordRegs) {r : RegName} (v : Word)
    (hr : r = .bsqVtor ∨ r = .bsqSp ∨ r = .bsqEntry) :
    (x.write r v).c1Vtor = x.c1Vtor ∧ (x.write r v).c1Sp = x.c1Sp ∧ (x.write r v).c1Pc = x.c1Pc := by
  rcases hr with rfl | rfl | rfl <;> exact ⟨rfl, rfl, rfl⟩

/-- Bit `n` of the word with bit `m` set is set only for `n = m`. -/
theorem eq_of_getLsbD_one_shiftLeft {m n : Nat} (h : (1#32 <<< m).getLsbD n = true) : n = m := by
  simp only [BitVec.getLsbD_shiftLeft, BitVec.getLsbD_one, Bool.and_eq_true, decide_eq_true_eq,
    Bool.not_eq_true', decide_eq_false_iff_not] at h
  omega

/-! ### The invariants after reset -/

/-- The state after reset meets the invariants (R49, R50, R300). -/
theorem inv_initial {c : Config} (h : c.wf = true) : Inv (State.initial c) := by
  refine ⟨h, ⟨rfl, rfl⟩, fun hi => absurd rfl hi, ?_, ⟨?_, ?_, ?_⟩, fun _ => ⟨rfl, rfl⟩, ?_, ?_⟩
  · simp [ResponderConsistent, hasReceived]
  · simp
  · simp
  · simp
  · intro c idx hidx
    cases c <;> cases hidx
  · intro d hd
    cases d <;> cases hd

/-- The invariants speak of the block alone. -/
theorem inv_of_block_eq (h : t.block = u.block) (hu : Inv u) : Inv t := by
  rwa [eq_of_block_eq Inv h]

/-- `RESET` of a well-formed launch leads to the invariants from any state. -/
theorem inv_resetState (h : s.cfg.wf = true) : Inv (resetState s) :=
  inv_of_block_eq (u := State.initial s.cfg) rfl (inv_initial h)

/-! ### The configuration -/

/-- No step changes the launch configuration (R45). -/
theorem StepEffect.cfg_eq (h : StepEffect o s u) : u.cfg = s.cfg := by
  cases h <;> rfl

/-! ### The sequencer -/

/-- While the sequencer is busy, its registers agree when the state is that of a step up to 5, with the drain and wake
phases at the probe steps only (R151, R152). -/
theorem sequencerConsistent_busy {b : Bsq} (hb : b.state.busy = true) :
    SequencerConsistent b ↔
      b.k ≤ 5#3 ∧ b.state = stateOfStep b.k ∧ (b.phase = .drain ∨ b.phase = .wake → b.k ≤ 1#3) := by
  obtain ⟨state, k, phase, desync, resends⟩ := b
  cases state with
  | idle => cases hb
  | peerRunning => cases hb
  | _ => exact Iff.rfl

/-- A busy sequencer may go to another phase when it is no phase of the probe steps, or stays among those (R152). -/
theorem sequencerConsistent_phase {b : Bsq} (ph : BsqPhase) (hb : b.state.busy = true) (h : SequencerConsistent b)
    (hph : ph = .drain ∨ ph = .wake → b.k ≤ 1#3) : SequencerConsistent { b with phase := ph } := by
  obtain ⟨hk, hst, -⟩ := (sequencerConsistent_busy hb).mp h
  exact (sequencerConsistent_busy (b := { b with phase := ph }) hb).mpr ⟨hk, hst, hph⟩

/-- A matching acknowledgement leads to the next step, and from step 5 to `PEER_RUNNING` (R157). -/
theorem sequencerConsistent_advanced {b : Bsq} (hk : b.k ≤ 5#3) : SequencerConsistent (advancedSequencer b) := by
  obtain ⟨state, k, phase, desync, resends⟩ := b
  obtain rfl | rfl | rfl | rfl | rfl | rfl := bootStep_cases hk <;>
    simp [SequencerConsistent, advancedSequencer, stateOfStep, firstPhase]

/-- A mismatch repeats the step from its first phase (R158). -/
theorem sequencerConsistent_resending {b : Bsq} (hb : b.state.busy = true) (h : SequencerConsistent b) :
    SequencerConsistent (resendingSequencer b) := by
  obtain ⟨hk, hst, -⟩ := (sequencerConsistent_busy hb).mp h
  refine (sequencerConsistent_busy (b := resendingSequencer b) hb).mpr ⟨hk, hst, fun hph => ?_⟩
  by_contra hgt
  have hlate : ¬ b.k ≤ 1#3 := hgt
  simp [resendingSequencer, hlate] at hph

/-- The registers of the sequencer stay in agreement: through `GO`, the phases of a step, and both answers to it. -/
theorem StepEffect.sequencerConsistent (he : StepEffect o s u) (hr : o ≠ some .reset)
    (h : SequencerConsistent s.bsq) : SequencerConsistent u.bsq := by
  cases he with
  | reset ho => exact absurd ho hr
  | go => exact ⟨(by decide : 0#3 ≤ 5#3), rfl, fun _ => (by decide : 0#3 ≤ 1#3)⟩
  | seqDrained hb hp =>
    obtain ⟨-, -, hprobe⟩ := (sequencerConsistent_busy hb).mp h
    exact sequencerConsistent_phase .wake hb h fun _ => hprobe (.inl hp)
  | seqWake hb => exact sequencerConsistent_phase .send hb h (by simp)
  | seqSend w hb => exact sequencerConsistent_phase .sendWake hb h (by simp)
  | seqSendWake hb => exact sequencerConsistent_phase .recv hb h (by simp)
  | seqMatch w hb hp hfull hk => exact sequencerConsistent_advanced hk
  | seqMismatch w hb => exact sequencerConsistent_resending hb h
  | _ => exact h

/-! ### The boot words -/

theorem BsqState.ne_idle_of_busy {st : BsqState} (h : st.busy = true) : st ≠ .idle := by
  rintro rfl
  cases h

/-- The boot words stay ready when they are not written and no sequencer starts. -/
theorem bootWordsReady_congr
    (hx : u.x.bsqVtor = s.x.bsqVtor ∧ u.x.bsqSp = s.x.bsqSp ∧ u.x.bsqEntry = s.x.bsqEntry)
    (hst : u.bsq.state = s.bsq.state) (hcfg : u.cfg = s.cfg) (h : BootWordsReady s) : BootWordsReady u := by
  obtain ⟨hvt, hsp, hentry⟩ := hx
  simpa only [BootWordsReady, hvt, hsp, hentry, hst, hcfg] using h

/-- Once the sequencer has started, its words are written: they are so when it starts, and locked from then on
(R142, R147). -/
theorem StepEffect.bootWordsReady (he : StepEffect o s u) (hr : o ≠ some .reset) (h : BootWordsReady s) :
    BootWordsReady u := by
  cases he with
  | reset ho => exact absurd ho hr
  | tx p v => exact bootWordsReady_congr (s.x.write_slot_bsqWords p v) rfl rfl h
  | seqSend w => exact bootWordsReady_congr (s.x.write_slot_bsqWords .p0 w) rfl rfl h
  | respAck => exact bootWordsReady_congr (s.x.write_slot_bsqWords .p1 _) rfl rfl h
  | writeSeq r v hseq hidle => exact fun hi => absurd hidle hi
  | go hi hvt hsp hentry => exact fun _ => ⟨hvt, hsp, hentry⟩
  | seqMatch w hb => exact fun _ => h (BsqState.ne_idle_of_busy hb)
  | seqMismatch w hb => exact fun _ => h (BsqState.ne_idle_of_busy hb)
  | _ => exact h

/-! ### The responder -/

/-- What the responder's registers agree on does not change with the other elements, as long as core 1's three word
registers keep their contents. -/
theorem responderConsistent_congr (hx : u.x.c1Vtor = s.x.c1Vtor ∧ u.x.c1Sp = s.x.c1Sp ∧ u.x.c1Pc = s.x.c1Pc)
    (hpbl : u.pbl = s.pbl) (hrun : u.c1Running = s.c1Running) (hcfg : u.cfg = s.cfg) (h : ResponderConsistent s) :
    ResponderConsistent u := by
  obtain ⟨hv, hsp, hpc⟩ := hx
  simpa only [ResponderConsistent, hv, hsp, hpc, hpbl, hrun, hcfg] using h

/-- The responder before its launch, driven by the reference responder: the step and phase fit, and the words it has
taken are written (R170 to R175). -/
theorem responderConsistent_halted (hrun : s.c1Running = false) (hpeer : s.cfg.peer = .pbl) :
    ResponderConsistent s ↔
      (if s.pbl.phase = .launch then s.pbl.k = 6#3 else s.pbl.k ≤ 5#3) ∧
      (hasReceived s.pbl 3#3 → s.x.c1Vtor.written = true) ∧ (hasReceived s.pbl 4#3 → s.x.c1Sp.written = true) ∧
      (hasReceived s.pbl 5#3 → s.x.c1Pc.written = true) := by
  simp [ResponderConsistent, hrun, hpeer]

/-- Before its launch phase the responder's step is one of 0 to 5 (R170). -/
theorem responder_step_le (h : ResponderConsistent s) (hrun : s.c1Running = false) (hp : s.pbl.phase ≠ .launch) :
    s.pbl.k ≤ 5#3 := by
  simpa [hp] using h.2.1 hrun

/-- A register kept at step `n` is written, by the step that keeps it or from before (R171). -/
theorem written_of_captured {k n : BitVec 3} {w : Word} {r : Reg} (h : k ≠ n → r.written = true) :
    (if k = n then ⟨w, true⟩ else r : Reg).written = true := by
  split
  · rfl
  · exact h ‹_›

/-- The responder that takes the word of step `k` had those of all other steps it now has. -/
theorem hasReceived_ack {p : Pbl} {w : Word} {n : BitVec 3}
    (h : hasReceived { p with w := w, phase := .ack } n) (hne : p.k ≠ n) : hasReceived p n := by
  rcases h with h | ⟨h, -⟩
  · exact .inl h
  · exact absurd h hne

/-- Acknowledging a word takes no other. -/
theorem hasReceived_ackWake {p : Pbl} {n : BitVec 3} (h : hasReceived { p with phase := .ackWake } n)
    (hp : p.phase = .ack) : hasReceived p n := by
  rcases h with h | ⟨h, -⟩
  · exact .inl h
  · exact .inr ⟨h, .inl hp⟩

/-- The next step has received the words of the step that ends, and no more. -/
theorem hasReceived_next {p : Pbl} {n : BitVec 3} {ph : PblPhase} (hk : p.k ≤ 5#3) (hp : p.phase = .ackWake)
    (hph : ph = .launch ∨ ph = .recv) (h : hasReceived { p with k := p.k + 1#3, phase := ph } n) :
    hasReceived p n := by
  obtain h | ⟨-, h⟩ := h
  · have hn : n < p.k ∨ p.k = n := by
      change n < p.k + 1#3 at h
      bv_omega
    exact hn.imp id fun he => ⟨he, .inr hp⟩
  · rcases hph with rfl | rfl <;> simp at h

/-- The registers of the responder stay in agreement: only its own four steps touch them, the others write the slots or
the sequencer's registers. -/
theorem StepEffect.responderConsistent (he : StepEffect o s u) (hr : o ≠ some .reset) (h : ResponderConsistent s) :
    ResponderConsistent u := by
  cases he with
  | reset ho => exact absurd ho hr
  | tx p v => exact responderConsistent_congr (s.x.write_slot_launchWords p v) rfl rfl rfl h
  | writeSeq r v hseq => exact responderConsistent_congr (s.x.write_seq_launchWords v hseq) rfl rfl rfl h
  | seqSend w => exact responderConsistent_congr (s.x.write_slot_launchWords .p0 w) rfl rfl rfl h
  | respReceive hrun hpeer hp =>
    obtain ⟨-, h3, h4, h5⟩ := (responderConsistent_halted hrun hpeer).mp h
    have hk := responder_step_le h hrun (by simp [hp])
    exact (responderConsistent_halted (by exact hrun) (by exact hpeer)).mpr
      ⟨hk, fun hr => written_of_captured fun hne => h3 (hasReceived_ack hr hne),
        fun hr => written_of_captured fun hne => h4 (hasReceived_ack hr hne),
        fun hr => written_of_captured fun hne => h5 (hasReceived_ack hr hne)⟩
  | respAck hrun hpeer hp =>
    obtain ⟨-, h3, h4, h5⟩ := (responderConsistent_halted hrun hpeer).mp h
    have hk := responder_step_le h hrun (by simp [hp])
    exact (responderConsistent_halted (by exact hrun) (by exact hpeer)).mpr
      ⟨hk, fun hr => h3 (hasReceived_ackWake hr hp), fun hr => h4 (hasReceived_ackWake hr hp),
        fun hr => h5 (hasReceived_ackWake hr hp)⟩
  | respAckWake hrun hpeer hp =>
    obtain ⟨-, h3, h4, h5⟩ := (responderConsistent_halted hrun hpeer).mp h
    have hk := responder_step_le h hrun (by simp [hp])
    have hph := ite_eq_or_eq (s.pbl.k + 1#3 = 6#3) PblPhase.launch .recv
    refine (responderConsistent_halted (by exact hrun) (by exact hpeer)).mpr
      ⟨?_, fun hr => h3 (hasReceived_next hk hp hph hr), fun hr => h4 (hasReceived_next hk hp hph hr),
        fun hr => h5 (hasReceived_next hk hp hph hr)⟩
    show if (if s.pbl.k + 1#3 = 6#3 then PblPhase.launch else .recv) = .launch then s.pbl.k + 1#3 = 6#3
      else s.pbl.k + 1#3 ≤ 5#3
    obtain hk | hk | hk | hk | hk | hk := bootStep_cases hk <;> rw [hk] <;> decide
  | respLaunch ho hrun hpeer hp hvt hsp hpc =>
    have hk : s.pbl.k = 6#3 := by simpa [hp] using h.2.1 hrun
    refine ⟨fun _ => ⟨hk, rfl, congrArg Reg.val hvt⟩, fun hr => ?_, fun _ => congrArg Reg.written hvt, fun _ => hsp,
      fun _ => hpc, fun hr => ?_⟩
    · cases hr
    · cases hpeer.symm.trans hr
  | _ => exact h

/-! ### Lines -/

/-- The bit of an existing line lies within the lines (R12, R260). -/
theorem edgeBit_masked {c : Config} (hc : c.wf = true) {n : Nat} (hn : n < nirq c) :
    (1#32 <<< n) &&& ~~~maskIrq c = 0#32 := by
  refine masked_iff.mpr fun i hi => ?_
  rw [eq_of_getLsbD_one_shiftLeft hi, maskIrq_bit hc]
  simpa using hn

/-- Enables are written under the mask or only cleared, and a condition is set only on an existing line. -/
theorem StepEffect.linesMasked (he : StepEffect o s u) (hr : o ≠ some .reset) (hc : s.cfg.wf = true)
    (h : LinesMasked s) : LinesMasked u := by
  obtain ⟨h0, h1, hcond⟩ := h
  cases he with
  | reset ho => exact absurd ho hr
  | edge n ho hn =>
    refine ⟨h0, h1, masked_iff.mpr fun i hi => ?_⟩
    rw [BitVec.getLsbD_or, Bool.or_eq_true] at hi
    exact hi.elim (masked_iff.mp hcond i) (masked_iff.mp (edgeBit_masked hc hn) i)
  | enable p v hv =>
    cases p with
    | p0 => exact ⟨hv.elim id (masked_trans · h0), h1, hcond⟩
    | p1 => exact ⟨h0, hv.elim id (masked_trans · h1), hcond⟩
  | clear d =>
    refine ⟨h0, h1, masked_iff.mpr fun i hi => masked_iff.mp hcond i ?_⟩
    rw [BitVec.getLsbD_and, Bool.and_eq_true] at hi
    exact hi.1
  | _ => exact ⟨h0, h1, hcond⟩

/-! ### Cores and handlers -/

/-- A halted core 1 takes no handler and parks nowhere, since both need a core that runs (R29). -/
theorem StepEffect.haltedCoreQuiet (he : StepEffect o s u) (hr : o ≠ some .reset) (h : HaltedCoreQuiet s) :
    HaltedCoreQuiet u := by
  intro hrun
  cases he with
  | reset ho => exact absurd ho hr
  | enter c idx handler hc =>
    cases c with
    | p0 => exact h hrun
    | p1 => exact absurd (hc.symm.trans hrun) (by decide)
  | leave c =>
    cases c with
    | p0 => exact h hrun
    | p1 => exact ⟨rfl, (h hrun).2⟩
  | unpark c =>
    cases c with
    | p0 => exact h hrun
    | p1 => exact ⟨(h hrun).1, rfl⟩
  | park p hc =>
    cases p with
    | p0 => exact h hrun
    | p1 => exact absurd (hc.symm.trans hrun) (by decide)
  | respLaunch => cases hrun
  | _ => exact h hrun

/-- The index a handler is entered with is that of a table entry of a handler (R193, R262, R266). -/
theorem EntryIndex.legal {c : Port} {idx : Nat} (h : EntryIndex s c idx) (hc : s.cfg.wf = true)
    (hm : LinesMasked s) : 1 ≤ idx ∧ idx < s.cfg.nvec := by
  obtain ⟨⟨h2, hle, -⟩, -⟩ := Config.wf_conditions hc
  obtain ⟨h1, hlt⟩ | ⟨n, rfl, hn⟩ := h
  · exact ⟨h1, by omega⟩
  · obtain ⟨-, -, hmask⟩ := hm
    have hcond : s.cond.getLsbD n = true := by
      rw [pendingLines, BitVec.getLsbD_and, Bool.and_eq_true] at hn
      exact hn.1
    have hline : n < nirq s.cfg := by simpa [maskIrq_bit hc] using masked_iff.mp hmask n hcond
    unfold nirq at hline
    omega

/-- A core's active index is the one it entered with, or none. -/
theorem StepEffect.activeIndexLegal (he : StepEffect o s u) (hr : o ≠ some .reset) (hc : s.cfg.wf = true)
    (hm : LinesMasked s) (h : ActiveIndexLegal s) : ActiveIndexLegal u := by
  intro q i hi
  cases he with
  | reset ho => exact absurd ho hr
  | enter c idx handler hrun hidx =>
    rw [Pair.get_set] at hi
    split at hi
    · cases hi
      exact hidx.legal hc hm
    · exact h q i hi
  | leave c =>
    rw [Pair.get_set] at hi
    split at hi
    · cases hi
    · exact h q i hi
  | _ => exact h q i hi

/-! ### Slots -/

/-- A push writes its slot, and no step takes the written mark off one (R22, R25). -/
theorem MailboxMove.fullSlotsWritten (hm : MailboxMove s u) (h : FullSlotsWritten s) : FullSlotsWritten u := by
  intro q hq
  cases hm with
  | push d v hclear hfull hslot =>
    rw [hfull, Pair.get_set] at hq
    rw [hslot]
    split at hq
    · rw [if_pos ‹_›]
    · rw [if_neg ‹_›]
      exact h q hq
  | pop d new hset hfull hslot =>
    rw [hfull, Pair.get_set] at hq
    rw [hslot]
    split at hq
    · cases hq
    · exact h q hq
  | neither new hfull hslot =>
    rw [hfull] at hq
    rw [hslot]
    exact h q hq

/-! ### All of them -/

/-- Every effect of a step but `RESET` keeps the invariants. -/
theorem StepEffect.inv (he : StepEffect o s u) (hr : o ≠ some .reset) (h : Inv s) : Inv u := by
  obtain ⟨hc, hseq, hboot, hresp, hlines, hquiet, hidx, hslots⟩ := h
  exact ⟨he.cfg_eq ▸ hc, he.sequencerConsistent hr hseq, he.bootWordsReady hr hboot, he.responderConsistent hr hresp,
    he.linesMasked hr hc hlines, he.haltedCoreQuiet hr hquiet, he.activeIndexLegal hr hc hlines hidx,
    (he.mailboxMove hr).fullSlotsWritten hslots⟩

/-- The step of a scheduled `RESET` (R300). -/
theorem step_reset (h : step s = .next t) (hr : s.schedule.head? = some .reset) :
    t = resetState { s with schedule := s.schedule.tail } := by
  obtain ⟨-, ⟨hs, -⟩ | ⟨e, later, hs, h⟩⟩ := step_next h
  · simp [hs] at hr
  · rw [hs] at hr ⊢
    cases hr
    cases h
    rfl

/-- Settles O47: the step has an effect on the block, every effect keeps the invariants, and these speak of the block
alone. -/
theorem stepKeepsInvariants : Obligations.StepKeepsInvariants := by
  intro s t hs h
  obtain ⟨u, he, hb⟩ := step_effect h
  by_cases hr : s.schedule.head? = some .reset
  · rw [step_reset h hr]
    exact inv_resetState hs.1
  · exact inv_of_block_eq hb (he.inv hr hs)

/-- Settles O48: the invariants look at no event still to come. -/
theorem resetMeetsInvariants : Obligations.ResetMeetsInvariants :=
  ⟨inv_initial (by decide), fun _ _ hc => inv_initial hc⟩

end Sys2Proof.Machine
end

section
/-! SUPPORT. The rules of the whole machine that follow from what one step can do: what launches and halts core 1, what
sets and clears a full flag or a condition, what never goes back and what never changes. -/

namespace Sys2Proof.Machine

variable {o : Option Event} {s t u : State}

/-! ### Core 1 (R29) -/

/-- Core 1 starts only by the launch. -/
theorem StepEffect.c1Running_up (he : StepEffect o s u) (hs : s.c1Running = false) (hu : u.c1Running = true) :
    o = some .pblStep ∧ s.pbl.phase = .launch := by
  cases he with
  | reset => cases hu
  | respLaunch ho hrun hpeer hp => exact ⟨ho, hp⟩
  | _ => cases hs.symm.trans hu

/-- Core 1 stops only by reset. -/
theorem StepEffect.c1Running_down (he : StepEffect o s u) (hs : s.c1Running = true) (hu : u.c1Running = false) :
    o = some .reset := by
  cases he with
  | reset ho => exact ho
  | respLaunch => cases hu
  | _ => cases hs.symm.trans hu

/-- A core that does not run makes no step of its own. -/
theorem coreStep_halted {c : Port} (hc : coreRuns s c = false) : coreStep c s = .next s := by
  simp [coreStep, streamMayStep, hc, hold]

/-- A core that does not run takes no interrupt. -/
theorem dispatch_halted {c : Port} (hc : coreRuns s c = false) : dispatch c s = .next s := by
  simp [dispatch, dispatchEnabled, hc, hold]

/-- While core 1 is halted, its scheduled step or dispatch only leaves the interleaving. -/
theorem step_halted (h : step s = .next t) (hs : s.c1Running = false)
    (he : s.schedule.head? = some (.core .p1) ∨ s.schedule.head? = some (.dispatch .p1)) :
    t = { s with schedule := s.schedule.tail } := by
  obtain ⟨-, ⟨hnil, -⟩ | ⟨e, later, hcons, h⟩⟩ := step_next h
  · simp [hnil] at he
  · have hc : coreRuns { s with schedule := later } .p1 = false := hs
    rw [hcons] at he ⊢
    rcases he with he | he
    · cases he
      cases (coreStep_halted hc).symm.trans h
      rfl
    · cases he
      cases (dispatch_halted hc).symm.trans h
      rfl

/-- Settles O54: the first two clauses hold of every effect, the third of the step of a halted core. -/
theorem coreOneRunsOnlyByLaunch : Obligations.CoreOneRunsOnlyByLaunch := by
  intro s t h
  obtain ⟨u, he, hb⟩ := step_effect h
  have hu : t.c1Running = u.c1Running := eq_of_block_eq State.c1Running hb
  exact ⟨fun hs ht => he.c1Running_up hs (hu ▸ ht), fun hs ht => he.c1Running_down hs (hu ▸ ht), step_halted h⟩

/-! ### Slots and full flags (R25) -/

/-- A recorded push is the step's push. -/
theorem MailboxMove.of_push_recorded (hm : MailboxMove s t) {d : Port} {v : Word}
    (h : t.hist = s.hist ++ [.push d v]) :
    s.full.get d = false ∧ t.full.get d = true ∧ t.x.get (slotOf d) = ⟨v, true⟩ := by
  cases hm with
  | push e w hclear hfull hslot hhist =>
    cases List.append_cancel_left (hhist.symm.trans h)
    exact ⟨hclear, by rw [hfull, Pair.get_set_same], by rw [hslot, if_pos rfl]⟩
  | pop e new hset hfull hslot hnew hhist => cases List.append_cancel_left (hhist.symm.trans h)
  | neither new hfull hslot hnew hhist =>
    cases List.append_cancel_left (hhist.symm.trans h)
    cases hnew _ (List.mem_singleton_self _)

/-- A recorded pop is the step's pop. -/
theorem MailboxMove.of_pop_recorded (hm : MailboxMove s t) {d : Port} {v : Word} {new : List HistEntry}
    (h : t.hist = s.hist ++ .pop d v :: new) :
    s.full.get d = true ∧ t.full.get d = false ∧ v = (s.x.get (slotOf d)).val := by
  cases hm with
  | push e w hclear hfull hslot hhist => cases List.append_cancel_left (hhist.symm.trans h)
  | pop e others hset hfull hslot hnew hhist =>
    cases List.append_cancel_left (hhist.symm.trans h)
    exact ⟨hset, by rw [hfull, Pair.get_set_same], rfl⟩
  | neither others hfull hslot hnew hhist =>
    cases List.append_cancel_left (hhist.symm.trans h)
    cases hnew _ List.mem_cons_self

/-- A full flag is set by a push of its direction only. -/
theorem MailboxMove.push_of_full_set (hm : MailboxMove s t) {d : Port} (hs : s.full.get d = false)
    (ht : t.full.get d = true) : ∃ v, t.hist = s.hist ++ [.push d v] := by
  cases hm with
  | push e v hclear hfull hslot hhist =>
    rw [hfull, Pair.get_set] at ht
    split at ht
    · subst d
      exact ⟨v, hhist⟩
    · cases hs.symm.trans ht
  | pop e new hset hfull =>
    rw [hfull, Pair.get_set] at ht
    split at ht
    · cases ht
    · cases hs.symm.trans ht
  | neither new hfull =>
    rw [hfull] at ht
    cases hs.symm.trans ht

/-- A full flag is cleared by a pop of its direction only. -/
theorem MailboxMove.pop_of_full_cleared (hm : MailboxMove s t) {d : Port} (hs : s.full.get d = true)
    (ht : t.full.get d = false) : ∃ v new, t.hist = s.hist ++ .pop d v :: new := by
  cases hm with
  | push e v hclear hfull =>
    rw [hfull, Pair.get_set] at ht
    split at ht
    · cases ht
    · cases hs.symm.trans ht
  | pop e new hset hfull hslot hnew hhist =>
    rw [hfull, Pair.get_set] at ht
    split at ht
    · subst d
      exact ⟨_, new, hhist⟩
    · cases hs.symm.trans ht
  | neither new hfull =>
    rw [hfull] at ht
    cases hs.symm.trans ht

/-- A full slot keeps its word. -/
theorem MailboxMove.slot_of_full (hm : MailboxMove s t) {d : Port} (hs : s.full.get d = true) :
    t.x.get (slotOf d) = s.x.get (slotOf d) := by
  cases hm with
  | push e v hclear hfull hslot =>
    rw [hslot]
    split
    · subst d
      cases hs.symm.trans hclear
    · rfl
  | pop e new hset hfull hslot => exact hslot d
  | neither new hfull hslot => exact hslot d

/-- Settles O55: every clause is read off the push, the pop or the absence of both that the step makes. -/
theorem fullFlagFollowsPushPop : Obligations.FullFlagFollowsPushPop := by
  intro s t d h hr
  have hm := step_mailboxMove h hr
  exact ⟨fun _ => hm.of_push_recorded, fun _ _ => hm.of_pop_recorded, hm.push_of_full_set, hm.pop_of_full_cleared,
    hm.slot_of_full⟩

/-! ### Sequencer and responder (R24, R159) -/

/-- A step counter up to 5 goes up without wrapping. -/
theorem step_succ_toNat {k : BitVec 3} (h : k.toNat ≤ 5) : (k + 1#3).toNat = k.toNat + 1 := by
  rw [BitVec.toNat_add, BitVec.toNat_ofNat]
  omega

/-- `BSQ.K` stays or goes up by one: `GO` finds it at 0, and an acknowledgement at most at 5. -/
theorem StepEffect.bsq_step (he : StepEffect o s u) (hr : o ≠ some .reset) (h : SequencerConsistent s.bsq) :
    u.bsq.k = s.bsq.k ∨ u.bsq.k.toNat = s.bsq.k.toNat + 1 := by
  cases he with
  | reset ho => exact absurd ho hr
  | go hi =>
    unfold SequencerConsistent at h
    rw [hi] at h
    exact .inl h.1.symm
  | seqMatch w hb hp hf hk => exact .inr (step_succ_toNat hk)
  | _ => exact .inl rfl

/-- `PBL.K` stays or goes up by one: it is at most 5 when the responder acknowledges. -/
theorem StepEffect.pbl_step (he : StepEffect o s u) (hr : o ≠ some .reset) (h : ResponderConsistent s) :
    u.pbl.k = s.pbl.k ∨ u.pbl.k.toNat = s.pbl.k.toNat + 1 := by
  cases he with
  | reset ho => exact absurd ho hr
  | respAckWake hrun hpeer hp => exact .inr (step_succ_toNat (responder_step_le h hrun (by simp [hp])))
  | _ => exact .inl rfl

/-- A sequencer that is neither idle nor busy is at rest until reset (R159). -/
theorem StepEffect.bsq_peerRunning (he : StepEffect o s u) (hr : o ≠ some .reset) (h : s.bsq.state = .peerRunning) :
    u.bsq = s.bsq := by
  have hidle : s.bsq.state ≠ .idle := by simp [h]
  have hbusy : s.bsq.state.busy ≠ true := by simp [h, BsqState.busy]
  cases he with
  | reset ho => exact absurd ho hr
  | go hi => exact absurd hi hidle
  | seqDrained hb | seqWake hb | seqSend _ hb | seqSendWake hb | seqMatch _ hb | seqMismatch _ hb =>
    exact absurd hb hbusy
  | _ => rfl

/-- `DESYNC` is cleared by reset only (R24). -/
theorem StepEffect.desync_stays (he : StepEffect o s u) (hr : o ≠ some .reset) (h : s.bsq.desync = true) :
    u.bsq.desync = true := by
  cases he with
  | reset ho => exact absurd ho hr
  | seqMismatch => rfl
  | _ => exact h

/-- Settles O56, clause by clause over the effects. -/
theorem sequencerNeverRewinds : Obligations.SequencerNeverRewinds := by
  intro s t hs h hr
  obtain ⟨-, hseq, -, hresp, -⟩ := hs
  obtain ⟨u, he, hb⟩ := step_effect h
  rw [eq_of_block_eq State.bsq hb, eq_of_block_eq State.pbl hb]
  exact ⟨he.bsq_step hr hseq, he.pbl_step hr hresp, he.bsq_peerRunning hr, he.desync_stays hr⟩

/-! ### Conditions (R42, R260, R261) -/

/-- A condition is set only by the edge of its line. -/
theorem StepEffect.cond_set (he : StepEffect o s u) {n : Nat} (hs : s.cond.getLsbD n = false)
    (hu : u.cond.getLsbD n = true) : o = some (.edge n) := by
  cases he with
  | reset => simp at hu
  | edge m ho =>
    have hm : (1#32 <<< m).getLsbD n = true := by simpa [hs] using hu
    rw [eq_of_getLsbD_one_shiftLeft hm]
    exact ho
  | clear d => simp [hs] at hu
  | _ => cases hs.symm.trans hu

/-- But for reset, a condition is cleared only by a `WR.IRQ_ST` with its bit set, which a core issues. -/
theorem StepEffect.cond_cleared (he : StepEffect o s u) (hr : o ≠ some .reset) {n : Nat}
    (hs : s.cond.getLsbD n = true) (hu : u.cond.getLsbD n = false) :
    ∃ d, d.getLsbD n = true ∧ IssuesNext o s (.wrIrqSt d) := by
  cases he with
  | reset ho => exact absurd ho hr
  | edge m => simp [hs] at hu
  | clear d hi =>
    have hn : n < 32 := BitVec.lt_of_getLsbD hs
    exact ⟨d, by simpa [hs, hn] using hu, hi⟩
  | _ => cases hs.symm.trans hu

/-- Settles O59: only the edge and the clearing write touch the conditions. -/
theorem conditionSetByEdgeOnly : Obligations.ConditionSetByEdgeOnly := by
  intro s t n h hr
  obtain ⟨u, he, hb⟩ := step_effect h
  rw [eq_of_block_eq State.cond hb]
  refine ⟨he.cond_set, fun hs hu => ?_⟩
  obtain ⟨d, hd, c, opcode, data, dst, rest, v, ho, hline, hv, hdec⟩ := he.cond_cleared hr hs hu
  exact ⟨c, opcode, data, dst, rest, v, d, ho, hline, hv, hdec, hd⟩

/-! ### What never changes (R36, R45, R75, R142) -/

/-- The history grows at its end. -/
theorem MailboxMove.hist_grows (hm : MailboxMove s t) : ∃ new, t.hist = s.hist ++ new := by
  cases hm with
  | push d v hclear hfull hslot hhist => exact ⟨_, hhist⟩
  | pop d new hset hfull hslot hnew hhist => exact ⟨_, hhist⟩
  | neither new hfull hslot hnew hhist => exact ⟨new, hhist⟩

/-- The three words of a started sequencer are locked (R142, R144, R146): pushes write the slots, and the responder
keeps its words elsewhere. -/
theorem StepEffect.bootWords_eq (he : StepEffect o s u) (hr : o ≠ some .reset) (hs : s.bsq.state ≠ .idle) :
    u.x.bsqVtor = s.x.bsqVtor ∧ u.x.bsqSp = s.x.bsqSp ∧ u.x.bsqEntry = s.x.bsqEntry := by
  cases he with
  | reset ho => exact absurd ho hr
  | tx p v => exact s.x.write_slot_bsqWords p v
  | seqSend w => exact s.x.write_slot_bsqWords .p0 w
  | respAck => exact s.x.write_slot_bsqWords .p1 _
  | writeSeq r v hseq hidle => exact absurd hidle hs
  | _ => exact ⟨rfl, rfl, rfl⟩

/-- Settles O60: the configuration stays, and with it the image of the table, which is canonical for every one. -/
theorem launchConstantsStay : Obligations.LaunchConstantsStay := by
  intro s t h
  obtain ⟨u, he, hb⟩ := step_effect h
  have hcfg : t.cfg = s.cfg := (eq_of_block_eq State.cfg hb).trans he.cfg_eq
  refine ⟨hcfg, by rw [hcfg], tableImage_wf t.cfg, fun hr => ⟨(step_mailboxMove h hr).hist_grows, fun hs => ?_⟩⟩
  rw [eq_of_block_eq State.x hb]
  exact he.bootWords_eq hr hs

end Sys2Proof.Machine
end

section
/-! SUPPORT. What the family 20_memory.md needs: the bank a transaction reaches, the word a vector fetch reads, and the
order in which the mailbox delivers. -/

namespace Sys2Proof.Machine

variable {i : Instr} {e : Event} {s t u : State} {d : Port}

/-! ### The bank of a transaction (R61, R282) -/

/-- The fields that a transaction may change; it leaves the handlers, saved points, program counters, streams, the
responder and the launch alone (R23, R282). -/
theorem exec_frame (h : exec i s = .next t) :
    ∃ x full evt parked bsq en cond hist rdata,
      t = { s with x, full, evt, parked, bsq, en, cond, hist, rdata } := by
  obtain ⟨v, rfl⟩ | ⟨d, -, -, -, rfl⟩ | ⟨v, -, -, -, -, rfl⟩ | ⟨d, -, rfl⟩ | ⟨d, -, -, -, rfl⟩ | ⟨d, -, -, -, rfl⟩ |
    ⟨r, d, -, -, rfl⟩ | ⟨-, -, -, -, -, rfl⟩ | ⟨v, -, rfl⟩ | ⟨d, -, rfl⟩ := exec_next h
  all_goals exact ⟨_, _, _, _, _, _, _, _, _, rfl⟩

/-- The enables and the parked bit of the other port stay, and its latch changes by a broadcast wake only (R61). -/
theorem exec_otherBank (h : exec i s = .next t) :
    t.en.get s.port.other = s.en.get s.port.other ∧ t.parked.get s.port.other = s.parked.get s.port.other ∧
      ((∀ d, i ≠ .wrWake d) → t.evt.get s.port.other = s.evt.get s.port.other) := by
  obtain ⟨v, rfl⟩ | ⟨d, -, -, -, rfl⟩ | ⟨v, -, -, -, -, rfl⟩ | ⟨d, hi, rfl⟩ | ⟨d, -, -, -, rfl⟩ | ⟨d, -, -, -, rfl⟩ |
    ⟨r, d, -, -, rfl⟩ | ⟨-, -, -, -, -, rfl⟩ | ⟨v, -, rfl⟩ | ⟨d, -, rfl⟩ := exec_next h
  case inr.inr.inr.inl => exact ⟨rfl, rfl, fun hno => absurd hi (hno d)⟩
  all_goals simp

/-- Settles O58: the banked fields are those of `exec_otherBank`, the others stand outside the frame. -/
theorem transactionReachesOwnBank : Obligations.TransactionReachesOwnBank := by
  intro i s t h
  obtain ⟨hen, hparked, hevt⟩ := exec_otherBank h
  obtain ⟨x, full, evt, parked, bsq, en, cond, hist, rdata, rfl⟩ := exec_frame h
  exact ⟨hen, hparked, hevt, rfl, rfl, rfl, rfl, rfl, rfl, rfl, rfl, rfl, rfl, rfl, rfl, rfl⟩

/-! ### The vector fetch (R62, R65, R192) -/

/-- A word is its four bytes, the highest first. -/
theorem append_byteOf (v : Word) : byteOf v 3 ++ byteOf v 2 ++ byteOf v 1 ++ byteOf v 0 = v := by
  unfold byteOf
  rw [BitVec.extractLsb'_append_extractLsb'_eq_extractLsb' (by decide),
    BitVec.extractLsb'_append_extractLsb'_eq_extractLsb' (by decide),
    BitVec.extractLsb'_append_extractLsb'_eq_extractLsb' (by decide)]
  exact BitVec.extractLsb'_eq_self

/-- The table of a well-formed launch ends within the address space, so no vector address wraps (R192). -/
theorem toNat_vectorAddress {c : Config} {idx : Nat} (hc : c.wf = true) (hi : idx < c.nvec) :
    (vectorAddress c idx).toNat = c.vtBase.toNat + 4 * idx := by
  obtain ⟨-, -, ⟨-, hend⟩, -⟩ := Config.wf_conditions hc
  rw [vectorAddress, BitVec.toNat_add, BitVec.toNat_ofNat]
  omega

/-- Four bytes that stand at an address and after it read as the word they make (R9, R65). -/
theorem memRead_of_byteAt {m : Memory} {a v : Word}
    (h : ∀ j < 4, m.byteAt (a.toNat + j) = some (byteOf v j)) : memRead m a = some v := by
  have h0 : m.byteAt a.toNat = some (byteOf v 0) := h 0 (by decide)
  simp only [memRead, h0, h 1 (by decide), h 2 (by decide), h 3 (by decide), append_byteOf]

/-- Settles O30: the image holds the four bytes of the entry at an address that does not wrap. -/
theorem vectorFetchReadsTable : Obligations.VectorFetchReadsTable := by
  intro c idx hc hi
  have haddr := toNat_vectorAddress hc hi
  exact ⟨memRead_of_byteAt fun j hj => haddr ▸ byteAt_tableImage c hi hj, haddr, vdt_ne_null hc⟩

/-! ### The interleaving to come (R14) -/

theorem exec_schedule (h : exec i s = .next t) : t.schedule = s.schedule := by
  obtain ⟨x, full, evt, parked, bsq, en, cond, hist, rdata, rfl⟩ := exec_frame h
  rfl

theorem enterHandler_schedule {c : Port} {idx : Nat} (h : enterHandler c idx s = .next t) :
    t.schedule = s.schedule := by
  obtain ⟨handler, kind, -, -, rfl⟩ := enterHandler_next h
  rfl

theorem exception_schedule {c : Port} {n : Nat} {rest : Script} (h : exception c n rest s = .next t) :
    t.schedule = s.schedule := by
  obtain ⟨-, -, ⟨-, rfl⟩ | ⟨-, -, -, h⟩⟩ := exception_next h
  · rfl
  · exact (enterHandler_schedule h :)

theorem coreStep_schedule {c : Port} (h : coreStep c s = .next t) : t.schedule = s.schedule := by
  obtain rfl | ⟨-, ⟨opcode, data, dst, rest, v, i, u, -, -, -, hu, rfl⟩ | ⟨n, rest, h⟩ | ⟨v, rest, names, rfl⟩ |
    ⟨rest, names, rfl⟩⟩ := coreStep_next h
  · rfl
  · exact (exec_schedule hu :)
  · exact exception_schedule h
  · rfl
  · rfl

/-- No agent's step changes the interleaving to come. -/
theorem runEvent_schedule (h : runEvent e s = .next t) : t.schedule = s.schedule := by
  cases e with
  | reset =>
    cases h
    rfl
  | readyUp => obtain ⟨-, rfl⟩ | ⟨-, rfl⟩ := readyUp_next h <;> rfl
  | edge n => obtain rfl | ⟨-, -, rfl⟩ := edge_next h <;> rfl
  | dispatch c =>
    obtain ⟨-, rfl⟩ | ⟨-, n, -, h⟩ := dispatch_next h
    · rfl
    · exact enterHandler_schedule h
  | hret c => obtain ⟨-, rfl⟩ | ⟨-, rfl⟩ := hret_next h <;> rfl
  | trap c =>
    cases (trap_eq c s).symm.trans h
    rfl
  | waitResume c => obtain ⟨-, rfl⟩ | ⟨-, rfl⟩ := waitResume_next h <;> rfl
  | bsqStep =>
    obtain rfl | ⟨-, -, ⟨-, -, -, rfl⟩ | ⟨-, -, rfl⟩ | ⟨-, rfl⟩ | ⟨-, -, -, w, -, rfl⟩ | ⟨-, rfl⟩ |
      ⟨-, -, -, -, w, -, ⟨-, rfl⟩ | ⟨-, rfl⟩⟩⟩ := bsqStep_next h
    all_goals rfl
  | pblStep =>
    obtain rfl | ⟨-, -, -, ⟨-, -, -, -, rfl⟩ | ⟨-, -, rfl⟩ | ⟨-, rfl⟩ | ⟨-, -, -, -, rfl⟩⟩ := pblStep_next h
    case inr.inl => rw [capture_eq, State.pop_schedule]
    all_goals rfl
  | env op =>
    obtain rfl | ⟨-, -, h⟩ := envStep_next h
    · rfl
    · exact (exec_schedule h :)
  | core c => exact coreStep_schedule h

/-- A step takes the next event off the interleaving. -/
theorem step_schedule (h : step s = .next t) : t.schedule = s.schedule.tail := by
  obtain ⟨-, ⟨hs, rfl⟩ | ⟨e, later, hs, h⟩⟩ := step_next h
  · rw [hs, List.tail_nil]
  · rw [hs, runEvent_schedule h, List.tail_cons]

/-! ### The order of the mailbox (R71, R128) -/

theorem pushesOf_append (d : Port) (a b : List HistEntry) : pushesOf d (a ++ b) = pushesOf d a ++ pushesOf d b := by
  induction a with
  | nil => rfl
  | cons e rest ih =>
    cases e with
    | push p v =>
      simp only [List.cons_append, pushesOf, ih]
      split <;> rfl
    | _ => exact ih

theorem popsOf_append (d : Port) (a b : List HistEntry) : popsOf d (a ++ b) = popsOf d a ++ popsOf d b := by
  induction a with
  | nil => rfl
  | cons e rest ih =>
    cases e with
    | pop p v =>
      simp only [List.cons_append, popsOf, ih]
      split <;> rfl
    | _ => exact ih

/-- Records that are no transfers count neither as pushes nor as pops. -/
theorem transfers_of_others {new : List HistEntry} (h : ∀ e ∈ new, e.isTransfer = false) (d : Port) :
    pushesOf d new = [] ∧ popsOf d new = [] := by
  induction new with
  | nil => exact ⟨rfl, rfl⟩
  | cons e rest ih =>
    obtain ⟨he, hrest⟩ := List.forall_mem_cons.mp h
    cases e with
    | push | pop => cases he
    | _ => exact ih hrest

theorem inFlight_empty (h : s.full.get d = false) : inFlight s d = [] := by
  simp [inFlight, h]

theorem inFlight_full (h : s.full.get d = true) : inFlight s d = [(s.x.get (slotOf d)).val] := by
  simp [inFlight, h]

/-- The words in flight are told by the full flag and the slot. -/
theorem inFlight_congr (hfull : t.full.get d = s.full.get d) (hslot : t.x.get (slotOf d) = s.x.get (slotOf d)) :
    inFlight t d = inFlight s d := by
  simp [inFlight, hfull, hslot]

/-- From `s` to `t` the history grows, and each direction delivers in order: the word in its slot in `s` and then the
words pushed are the words popped and then the word in its slot in `t` (R71). -/
def DeliversInOrder (s t : State) : Prop :=
  ∃ new, t.hist = s.hist ++ new ∧ ∀ d : Port, inFlight s d ++ pushesOf d new = popsOf d new ++ inFlight t d

theorem DeliversInOrder.refl (s : State) : DeliversInOrder s s :=
  ⟨[], (List.append_nil _).symm, fun _ => List.append_nil _⟩

/-- The word in a slot between two stretches is the last pushed in the one and the first popped in the other. -/
theorem DeliversInOrder.trans (h : DeliversInOrder s t) (h' : DeliversInOrder t u) : DeliversInOrder s u := by
  obtain ⟨new, hhist, hfifo⟩ := h
  obtain ⟨new', hhist', hfifo'⟩ := h'
  refine ⟨new ++ new', by rw [hhist', hhist, List.append_assoc], fun d => ?_⟩
  calc inFlight s d ++ pushesOf d (new ++ new')
      = (inFlight s d ++ pushesOf d new) ++ pushesOf d new' := by rw [pushesOf_append, List.append_assoc]
    _ = popsOf d new ++ (inFlight t d ++ pushesOf d new') := by rw [hfifo, List.append_assoc]
    _ = popsOf d (new ++ new') ++ inFlight u d := by rw [hfifo', popsOf_append, List.append_assoc]

/-- A push finds its slot empty, a pop its slot full, and neither touches the other direction. -/
theorem MailboxMove.deliversInOrder (hm : MailboxMove s t) : DeliversInOrder s t := by
  cases hm with
  | push p v hclear hfull hslot hhist =>
    refine ⟨_, hhist, fun d => ?_⟩
    by_cases hd : d = p
    · subst d
      rw [inFlight_empty hclear, inFlight_full (by rw [hfull, Pair.get_set_same]), hslot]
      simp [pushesOf, popsOf]
    · rw [inFlight_congr (by rw [hfull, Pair.get_set, if_neg hd]) (by rw [hslot, if_neg hd])]
      simp [pushesOf, popsOf, Ne.symm hd]
  | pop p new hset hfull hslot hnew hhist =>
    refine ⟨_, hhist, fun d => ?_⟩
    obtain ⟨hpush, hpop⟩ := transfers_of_others hnew d
    by_cases hd : d = p
    · subst d
      rw [inFlight_full hset, inFlight_empty (by rw [hfull, Pair.get_set_same])]
      simp [pushesOf, popsOf, hpush, hpop]
    · rw [inFlight_congr (by rw [hfull, Pair.get_set, if_neg hd]) (hslot d)]
      simp [pushesOf, popsOf, hpush, hpop, Ne.symm hd]
  | neither new hfull hslot hnew hhist =>
    refine ⟨new, hhist, fun d => ?_⟩
    obtain ⟨hpush, hpop⟩ := transfers_of_others hnew d
    rw [inFlight_congr (by rw [hfull]) (hslot d), hpush, hpop, List.append_nil, List.nil_append]

/-- A run of an interleaving without a reset leaves none to come, and each direction delivers in order over it. -/
theorem Runs.deliversInOrder (h : Runs s t) (hr : Event.reset ∉ s.schedule) :
    Event.reset ∉ t.schedule ∧ DeliversInOrder s t := by
  induction h with
  | refl => exact ⟨hr, .refl s⟩
  | next _ hstep ih =>
    obtain ⟨hr', hfifo⟩ := ih
    refine ⟨fun hmem => hr' (List.mem_of_mem_tail (step_schedule hstep ▸ hmem)), hfifo.trans ?_⟩
    exact (step_mailboxMove hstep fun hhead => hr' (List.mem_of_mem_head? hhead)).deliversInOrder

/-- Settles O49, by induction on the run: each step is a push, a pop or neither. -/
theorem mailboxIsFifo : Obligations.MailboxIsFifo :=
  fun _ _ hr h => (h.deliversInOrder hr).2

end Sys2Proof.Machine
end

section
/-! SUPPORT. What the family 30_encoding.md needs: the decoder case by case along R91, that it and the encoder are
inverse (R94), that both follow the rows of the opcode map (R93), the words it rejects (R97), the port rights (R98), and
the step of a scheduled transaction (R91, R101). -/

namespace Sys2Proof

variable {T : TWord} {i : Instr} {a : BitVec 6} {b : BitVec 8} {d : Word} {w s : Bool} {m : String}

/-! ### The steps of the decoder (R91) -/

theorem decode_readWithData (hw : fieldW T = false) (hd : fieldD T ≠ 0#32) : decode T = .error .readWithData :=
  if_pos ⟨hw, hd⟩

theorem decode_tableRead (hw : fieldW T = false) (hs : fieldS T = true) (hd : fieldD T = 0#32) :
    decode T = .ok (.rdVdt (fieldA T).toNat) := by
  simp [decode, hw, hs, hd]

theorem decode_tableWrite (hw : fieldW T = true) (hs : fieldS T = true) : decode T = .error .tableWrite := by
  simp [decode, hw, hs]

theorem decode_registerRead (hw : fieldW T = false) (hs : fieldS T = false) (hd : fieldD T = 0#32) :
    decode T = decodeRead (fieldA T).toNat := by
  simp [decode, hw, hs, hd]

theorem decode_registerWrite (hw : fieldW T = true) (hs : fieldS T = false) :
    decode T = decodeWrite (fieldA T).toNat (fieldD T) := by
  simp [decode, hw, hs]

/-- An accepted word is a table read, a register read or a register write, and the reads carry no data. -/
theorem decode_ok (h : decode T = .ok i) :
    (fieldW T = false ∧ fieldS T = true ∧ fieldD T = 0#32 ∧ i = .rdVdt (fieldA T).toNat) ∨
      (fieldW T = false ∧ fieldS T = false ∧ fieldD T = 0#32 ∧ decodeRead (fieldA T).toNat = .ok i) ∨
      (fieldW T = true ∧ fieldS T = false ∧ decodeWrite (fieldA T).toNat (fieldD T) = .ok i) := by
  cases hw : fieldW T with
  | false =>
    have hd : fieldD T = 0#32 := by
      by_contra hd
      cases (decode_readWithData hw hd).symm.trans h
    cases hs : fieldS T with
    | false => exact .inr (.inl ⟨rfl, rfl, hd, decode_registerRead hw hs hd ▸ h⟩)
    | true =>
      cases (decode_tableRead hw hs hd).symm.trans h
      exact .inl ⟨rfl, rfl, hd, rfl⟩
  | true =>
    cases hs : fieldS T with
    | false => exact .inr (.inr ⟨rfl, rfl, decode_registerWrite hw hs ▸ h⟩)
    | true => cases (decode_tableWrite hw hs).symm.trans h

/-- The word of a register read decodes by its offset. -/
theorem decode_wordOf_read (hw : b.getLsbD 7 = false) (hs : b.getLsbD 6 = false) :
    decode (wordOf b 0#32) = decodeRead (b.extractLsb' 0 6).toNat := by
  rw [decode_registerRead (by simpa using hw) (by simpa using hs) (by simp), fieldA_wordOf]

/-- The word of a register write decodes by its offset, with its data whole. -/
theorem decode_wordOf_write (hw : b.getLsbD 7 = true) (hs : b.getLsbD 6 = false) :
    decode (wordOf b d) = decodeWrite (b.extractLsb' 0 6).toNat d := by
  rw [decode_registerWrite (by simpa using hw) (by simpa using hs), fieldA_wordOf, fieldD_wordOf]

/-! ### The encoder inverts the decoder (R94) -/

/-- The word of an opcode byte is that of the fields of the byte. -/
theorem wordOf_eq_packWord_of_offset (ha : a.toNat = (b.extractLsb' 0 6).toNat) (hw : b.getLsbD 7 = w)
    (hs : b.getLsbD 6 = s) : wordOf b d = packWord w s a d := by
  rw [wordOf_eq_packWord, hw, hs, BitVec.eq_of_toNat_eq ha]

/-- A data word whose bits 31:1 are 0 is its bit 0 (R97 (f)). -/
theorem setWidth_ofBool_of_upper_zero (h : d.extractLsb' 1 31 = 0#31) :
    (BitVec.ofBool (d.getLsbD 0)).setWidth 32 = d := by
  apply BitVec.eq_of_getLsbD_eq
  intro n hn
  cases n with
  | zero => simp
  | succ k =>
    have hk := congrArg (·.getLsbD k) h
    simp only [BitVec.getLsbD_extractLsb', BitVec.getLsbD_zero] at hk
    have hk31 : k < 31 := by omega
    simp_all [Nat.add_comm]

/-- Bits 31:1 of the data of `WR.BSQ_CTRL` are 0 (R94). -/
theorem upper_setWidth_ofBool (go : Bool) : ((BitVec.ofBool go).setWidth 32 : Word).extractLsb' 1 31 = 0#31 := by
  cases go <;> rfl

/-- A register read's transaction encodes to its offset, without data. -/
theorem encode_decodeRead (h : decodeRead a.toNat = .ok i) :
    i.wf = true ∧ encode i = packWord false false a 0#32 := by
  unfold decodeRead at h
  split at h
  all_goals cases h
  all_goals exact ⟨rfl, wordOf_eq_packWord_of_offset ‹a.toNat = _› rfl rfl⟩

/-- A register write's transaction encodes to its offset and its whole data word. -/
theorem encode_decodeWrite (h : decodeWrite a.toNat d = .ok i) :
    i.wf = true ∧ encode i = packWord true false a d := by
  unfold decodeWrite at h
  split at h
  -- the arm of `WR.BSQ_CTRL`, the only write whose data is not free
  case h_7 ha =>
    split at h
    case isTrue hd =>
      cases h
      exact ⟨rfl, by rw [encode, setWidth_ofBool_of_upper_zero hd]; exact wordOf_eq_packWord_of_offset ha rfl rfl⟩
    case isFalse => cases h
  all_goals cases h
  all_goals exact ⟨rfl, wordOf_eq_packWord_of_offset ‹a.toNat = _› rfl rfl⟩

/-- A word is accepted as a well-formed transaction, whose encoding it is: the decoder loses no bit of it. -/
theorem encode_decode (h : decode T = .ok i) : i.wf = true ∧ encode i = T := by
  rw [← packWord_fields T]
  obtain ⟨hw, hs, hd, rfl⟩ | ⟨hw, hs, hd, hr⟩ | ⟨hw, hs, hr⟩ := decode_ok h
  · rw [hw, hs, hd]
    exact ⟨decide_eq_true (fieldA T).isLt, by rw [encode, BitVec.ofNat_toNat, BitVec.setWidth_eq]⟩
  · rw [hw, hs, hd]
    exact encode_decodeRead hr
  · rw [hw, hs]
    exact encode_decodeWrite hr

/-! ### The decoder inverts the encoder (R94) -/

theorem decode_encode (hi : i.wf = true) : decode (encode i) = .ok i := by
  cases i with
  | rdCpuid | rdSt | rdRx | rdBsqVtor | rdBsqSp | rdBsqEntry | rdBsqSt | rdBsqResends | rdIrqEn | rdIrqSt | rdC1St
  | rdC1Vtor | rdC1Sp | rdC1Pc => exact decode_wordOf_read rfl rfl
  | wrTx d | wrWake d | wrWait d | wrBsqVtor d | wrBsqSp d | wrBsqEntry d | wrIrqEn d | wrIrqEnSet d | wrIrqEnClr d
  | wrIrqEnXor d | wrIrqSt d => exact decode_wordOf_write rfl rfl
  | wrBsqCtrl go => cases go <;> rfl
  | rdVdt idx =>
    have hidx : idx < 64 := of_decide_eq_true hi
    rw [encode, decode_tableRead (by simp) (by simp) (by simp), fieldA_packWord, BitVec.toNat_ofNat,
      Nat.mod_eq_of_lt hidx]

/-- Settles O1: the two inverses; a read carries no data because the decoder accepts its word. -/
theorem encodeDecodeInverse : Obligations.EncodeDecodeInverse := by
  refine ⟨fun i => decode_encode, fun T i => encode_decode, fun i hi hw => ?_, fun d i hmem => ?_, fun go => ?_⟩
  · obtain ⟨-, -, hd, -⟩ | ⟨-, -, hd, -⟩ | ⟨hw', -⟩ := decode_ok (decode_encode hi)
    · exact hd
    · exact hd
    · cases hw.symm.trans hw'
  · simp only [List.mem_cons, List.not_mem_nil, or_false] at hmem
    obtain rfl | rfl | rfl | rfl | rfl | rfl | rfl | rfl | rfl | rfl | rfl := hmem
    all_goals exact ⟨fieldW_wordOf _ d, fieldD_wordOf _ d⟩
  · exact ⟨fieldW_wordOf _ _, by rw [encode, fieldD_wordOf, upper_setWidth_ofBool]⟩

/-! ### The rows of the opcode map (R93) -/

/-- Every well-formed transaction's word selects its own row. -/
theorem encode_selectsRow (i : Instr) : Laws.SelectsRow.Statement i := by
  cases i
  exacts [Laws.SelectsRow.rdCpuid, Laws.SelectsRow.rdSt, Laws.SelectsRow.wrTx _, Laws.SelectsRow.rdRx,
    Laws.SelectsRow.wrWake _, Laws.SelectsRow.wrWait _, Laws.SelectsRow.rdBsqVtor, Laws.SelectsRow.wrBsqVtor _,
    Laws.SelectsRow.rdBsqSp, Laws.SelectsRow.wrBsqSp _, Laws.SelectsRow.rdBsqEntry, Laws.SelectsRow.wrBsqEntry _,
    Laws.SelectsRow.wrBsqCtrl _, Laws.SelectsRow.rdBsqSt, Laws.SelectsRow.rdBsqResends, Laws.SelectsRow.rdIrqEn,
    Laws.SelectsRow.wrIrqEn _, Laws.SelectsRow.wrIrqEnSet _, Laws.SelectsRow.wrIrqEnClr _,
    Laws.SelectsRow.wrIrqEnXor _, Laws.SelectsRow.rdIrqSt, Laws.SelectsRow.wrIrqSt _, Laws.SelectsRow.rdC1St,
    Laws.SelectsRow.rdC1Vtor, Laws.SelectsRow.rdC1Sp, Laws.SelectsRow.rdC1Pc, Laws.SelectsRow.rdVdt _]

/-- A row fixes the bits under its mask. -/
theorem getLsbD_of_selects {r : OpcodeRow} (h : r.selects T = true) {n : Nat} (hn : r.mask.getLsbD n = true) :
    T.getLsbD n = r.matchBits.getLsbD n := by
  rw [← eq_of_beq h, BitVec.getLsbD_and, hn, Bool.and_true]

/-- A row with a full mask selects one word. -/
theorem eq_of_fixedRow_selects (h : (fixedRow m b).selects T = true) : T = wordOf b 0#32 := by
  have hm : T &&& BitVec.allOnes 40 = wordOf b 0#32 := eq_of_beq h
  rwa [BitVec.and_allOnes] at hm

/-- A row with free data selects the words of its opcode byte. -/
theorem eq_of_dataRow_selects (h : (dataRow m b).selects T = true) : T = wordOf b (fieldD T) := by
  have hmask : ∀ n < 40, 32 ≤ n → (0xFF00000000#40 : TWord).getLsbD n = true := by decide
  apply BitVec.eq_of_getLsbD_eq
  intro n hn
  by_cases hlo : n < 32
  · simp [getLsbD_wordOf, fieldD, hlo]
  · rw [getLsbD_of_selects h (hmask n hn (Nat.le_of_not_lt hlo))]
    simp [dataRow, getLsbD_wordOf, hlo]

/-- The row of `WR.BSQ_CTRL` selects the words whose data bits 31:1 are 0. -/
theorem eq_of_ctrlRow_selects (h : OpcodeRow.selects ⟨m, 0x8B00000000#40, 0xFFFFFFFFFE#40⟩ T = true) :
    T = encode (.wrBsqCtrl (T.getLsbD 0)) := by
  have hmask : ∀ n < 40, n ≠ 0 → (0xFFFFFFFFFE#40 : TWord).getLsbD n = true := by decide
  have hfree : ∀ go, ∀ n < 40, n ≠ 0 → (encode (.wrBsqCtrl go)).getLsbD n = (0x8B00000000#40 : TWord).getLsbD n := by
    decide
  apply BitVec.eq_of_getLsbD_eq
  intro n hn
  by_cases h0 : n = 0
  · subst n
    rw [encode, getLsbD_wordOf]
    simp
  · rw [getLsbD_of_selects h (hmask n hn h0), hfree _ n hn h0]

/-- The row of `RD.VDT` selects the words of the table window that read and carry no data, at every index. -/
theorem fields_of_tableRow_selects (h : OpcodeRow.selects ⟨m, 0x4000000000#40, 0xC0FFFFFFFF#40⟩ T = true) :
    fieldW T = false ∧ fieldS T = true ∧ fieldD T = 0#32 := by
  have hbits : ∀ n < 40, (n < 32 ∨ 38 ≤ n) → (0xC0FFFFFFFF#40 : TWord).getLsbD n = true ∧
      (0x4000000000#40 : TWord).getLsbD n = decide (n = 38) := by decide
  have hT (n : Nat) (hn : n < 40) (hfixed : n < 32 ∨ 38 ≤ n) : T.getLsbD n = decide (n = 38) := by
    obtain ⟨hmask, hmatch⟩ := hbits n hn hfixed
    rw [getLsbD_of_selects h hmask, hmatch]
  refine ⟨hT 39 (by decide) (by decide), hT 38 (by decide) (by decide), ?_⟩
  apply BitVec.eq_of_getLsbD_eq
  intro n hn
  rw [fieldD, BitVec.getLsbD_extractLsb', Nat.zero_add, hT n (by omega) (.inl hn)]
  simp [show n ≠ 38 by omega]

/-- A word that a row selects decodes to a transaction of that row. -/
theorem decode_of_row_selects {r : OpcodeRow} {n : Nat} (hr : opcodeRows[n]? = some r) (h : r.selects T = true) :
    ∃ i, decode T = .ok i ∧ rowNumber i = n :=
  match n, hr with
  | 0, rfl | 1, rfl | 3, rfl | 6, rfl | 8, rfl | 10, rfl | 13, rfl | 14, rfl | 15, rfl | 20, rfl | 22, rfl | 23, rfl
  | 24, rfl | 25, rfl => ⟨_, eq_of_fixedRow_selects h ▸ decode_wordOf_read rfl rfl, rfl⟩
  | 2, rfl | 4, rfl | 5, rfl | 7, rfl | 9, rfl | 11, rfl | 16, rfl | 17, rfl | 18, rfl | 19, rfl
  | 21, rfl => ⟨_, eq_of_dataRow_selects h ▸ decode_wordOf_write rfl rfl, rfl⟩
  | 12, rfl => ⟨_, eq_of_ctrlRow_selects h ▸ decode_encode rfl, rfl⟩
  | 26, rfl =>
    have ⟨hw, hs, hd⟩ := fields_of_tableRow_selects h
    ⟨_, decode_tableRead hw hs hd, rfl⟩

/-- Settles O2: a word's row is that of the transaction it decodes to, so there is no second one. -/
theorem decodeFollowsOpcodeMap : Obligations.DecodeFollowsOpcodeMap := by
  refine ⟨fun T => ⟨fun i h => ?_, ?_⟩, fun T m n r q hr hq hT hT' => ?_⟩
  · obtain ⟨hwf, rfl⟩ := encode_decode h
    exact encode_selectsRow i hwf
  · rintro ⟨r, hmem, hT⟩
    obtain ⟨n, hr⟩ := List.getElem?_of_mem hmem
    obtain ⟨i, hi, -⟩ := decode_of_row_selects hr hT
    exact ⟨i, hi⟩
  · obtain ⟨i, hi, rfl⟩ := decode_of_row_selects hr hT
    obtain ⟨j, hj, rfl⟩ := decode_of_row_selects hq hT'
    rw [Except.ok.inj (hi.symm.trans hj)]

/-! ### Reserved words (R97) -/

theorem decodeRead_undefined (ha : a ∈ [0x06#6, 0x07#6, 0x0E#6, 0x0F#6, 0x15#6, 0x16#6, 0x17#6] ∨ 0x1C#6 ≤ a) :
    decodeRead a.toNat = .error .undefinedOffset := by
  revert a
  decide

theorem decodeWrite_undefined (ha : a ∈ [0x06#6, 0x07#6, 0x0E#6, 0x0F#6, 0x15#6, 0x16#6, 0x17#6] ∨ 0x1C#6 ≤ a) :
    decodeWrite a.toNat d = .error .undefinedOffset := by
  have hother : ∀ k ∈ [0x00, 0x01, 0x02, 0x03, 0x04, 0x05, 0x08, 0x09, 0x0A, 0x0B, 0x0C, 0x0D, 0x10, 0x11, 0x12, 0x13,
      0x14, 0x18, 0x19, 0x1A, 0x1B], a.toNat ≠ k := by
    revert a
    decide
  unfold decodeWrite
  split
  case h_22 => rfl
  all_goals exact absurd ‹a.toNat = _› (hother _ (by decide))

theorem decodeRead_writeOnly (ha : a ∈ [0x02#6, 0x04#6, 0x05#6, 0x0B#6, 0x11#6, 0x12#6, 0x13#6]) :
    decodeRead a.toNat = .error .readOfWriteOnly := by
  revert a
  decide

theorem decodeWrite_readOnly
    (ha : a ∈ [0x00#6, 0x01#6, 0x03#6, 0x0C#6, 0x0D#6, 0x18#6, 0x19#6, 0x1A#6, 0x1B#6]) :
    decodeWrite a.toNat d = .error .writeOfReadOnly := by
  simp only [List.mem_cons, List.not_mem_nil, or_false] at ha
  obtain rfl | rfl | rfl | rfl | rfl | rfl | rfl | rfl | rfl := ha
  all_goals rfl

/-- A register read at a rejected offset is rejected, with data or without. -/
theorem decode_registerRead_error {why : Reserved} (hw : fieldW T = false) (hs : fieldS T = false)
    (h : decodeRead (fieldA T).toNat = .error why) : ∃ why, decode T = .error why := by
  by_cases hd : fieldD T = 0#32
  · exact ⟨why, (decode_registerRead hw hs hd).trans h⟩
  · exact ⟨_, decode_readWithData hw hd⟩

/-- Settles O3, class by class. -/
theorem reservedWordsRejected : Obligations.ReservedWordsRejected := by
  rintro T (⟨hw, hd⟩ | ⟨hs, hw⟩ | ⟨hs, ha⟩ | ⟨hs, hw, ha⟩ | ⟨hs, hw, ha⟩ | ⟨hs, hw, ha, hd⟩)
  · exact ⟨_, decode_readWithData hw hd⟩
  · exact ⟨_, decode_tableWrite hw hs⟩
  · cases hw : fieldW T with
    | false => exact decode_registerRead_error hw hs (decodeRead_undefined ha)
    | true => exact ⟨_, (decode_registerWrite hw hs).trans (decodeWrite_undefined ha)⟩
  · exact decode_registerRead_error hw hs (decodeRead_writeOnly ha)
  · exact ⟨_, (decode_registerWrite hw hs).trans (decodeWrite_readOnly ha)⟩
  · exact ⟨.ctrlReservedBits, by rw [decode_registerWrite hw hs, ha]; exact if_neg hd⟩

/-- Settles O4: the words are closed, and the decoder evaluates on each. -/
theorem vectorWordsDecode : Obligations.VectorWordsDecode :=
  ⟨rfl, rfl, rfl, rfl, rfl, rfl, rfl, rfl, rfl, rfl⟩

end Sys2Proof

namespace Sys2Proof.Machine

/-! ### The port rights of a transaction (R98) -/

/-- The meaning of every transaction stands behind the common checks (R120). -/
theorem exec_checked (i : Instr) (s : State) : ∃ own, exec i s = checked i s own := by
  cases i
  all_goals exact ⟨_, rfl⟩

/-- What R98 refuses, the machine refuses, ready or not. -/
theorem exec_refused_of_rightsProblem {i : Instr} {s : State} {r : Refusal}
    (h : rightsProblem s.cfg s.port i = some r) : exec i s = .refused r := by
  obtain ⟨own, ho⟩ := exec_checked i s
  rw [ho, checked, h]

theorem rightsProblem_port1 {c : Config} {i : Instr} (h : port0Only i = true) :
    rightsProblem c .p1 i = some (.portRights (encode i) .p1) := by
  simp [rightsProblem, h]

theorem rightsProblem_tableRange {c : Config} {p : Port} {idx : Nat} (h : c.nvec ≤ idx) :
    rightsProblem c p (.rdVdt idx) = some (.vdtIndexRange idx) :=
  if_pos h

/-- Settles O22: both are refusals of R98, which come before the check of readiness. -/
theorem rightsRefusals : Obligations.RightsRefusals := by
  refine ⟨fun d go s hp i hi => ?_, fun idx s h => exec_refused_of_rightsProblem (rightsProblem_tableRange h)⟩
  have hport0 : port0Only i = true := by
    simp only [List.mem_cons, List.not_mem_nil, or_false] at hi
    obtain rfl | rfl | rfl | rfl | rfl | rfl | rfl | rfl | rfl := hi
    all_goals rfl
  exact exec_refused_of_rightsProblem (by rw [hp, rightsProblem_port1 hport0])

/-! ### The step of a scheduled transaction (R91, R101) -/

theorem issueWord_ok {c : Port} {T : TWord} {s : State} {i : Instr} (h : decode T = .ok i) :
    issueWord c T s = exec i { s with port := c } := by
  simp only [issueWord, h]

/-- A stream that may step and stands at a transaction issues its word (R91, R101). -/
theorem coreStep_access {s : State} {c : Port} {opcode : BitVec 8} {data : Operand} {dst : Option Name} {rest : Script}
    {names : List (Name × Word)} {v : Word} (hm : streamMayStep s c = true)
    (hst : s.streams.get c = ⟨.line (.access opcode data dst) rest, names⟩) (hv : evalOperand names data = some v) :
    coreStep c s = afterTransaction c dst rest names (issueWord c (wordOf opcode v) s) := by
  simp only [coreStep, hm, if_true, hst, lineStep, hv]

/-- Settles O27: the step is the event, the event is the line, and the line issues the decoded transaction. -/
theorem stepRunsDecodedTransaction : Obligations.StepRunsDecodedTransaction := by
  intro s c later opcode data dst rest names v i hwf hsched hm hst hv hdec
  have hstep : step s = afterTransaction c dst rest names (exec i { s with schedule := later, port := c }) :=
    calc step s
        = coreStep c { s with schedule := later } := step_event (Config.configProblem_none hwf) hsched
      _ = afterTransaction c dst rest names (issueWord c (wordOf opcode v) { s with schedule := later }) :=
          coreStep_access hm hst hv
      _ = _ := by rw [issueWord_ok hdec]
  rw [hstep]
  cases exec i { s with schedule := later, port := c }
  all_goals rfl

end Sys2Proof.Machine
end

section
/-! SUPPORT. What the family 40_mailbox_ops.md needs: what ends a wait, over the effects of `StepEffect` (R127, R265),
the check of readiness (R120), and the own rule of each mailbox transaction once the common checks have passed
(R121 to R126). -/

namespace Sys2Proof.Machine

variable {o : Option Event} {s u : State} {i : Instr} {c : Port} {d : Word}

/-! ### The end of a wait (R127) -/

/-- Only a park and the end of a wait touch `PARKED`, and only the end of a wait clears it. -/
theorem StepEffect.parked_cleared (he : StepEffect o s u) (hr : o ≠ some .reset) (hs : s.parked.get c = true)
    (hu : u.parked.get c = false) : o = some (.waitResume c) ∧ s.evt.get c = true ∧ u.evt.get c = false := by
  cases he with
  | reset ho => exact absurd ho hr
  | unpark q ho hq =>
    rw [Pair.get_set] at hu
    split at hu
    · subst q
      simp only [waitResumeEnabled, Bool.and_eq_true] at hq
      exact ⟨ho, hq.2, Pair.get_set_same _ _ _⟩
    · cases hs.symm.trans hu
  | park q =>
    rw [Pair.get_set] at hu
    split at hu
    · cases hu
    · cases hs.symm.trans hu
  | _ => cases hs.symm.trans hu

/-- Settles O57: no other effect unparks a core, and the latches and parked bits belong to the block. -/
theorem onlyAnEventEndsAWait : Obligations.OnlyAnEventEndsAWait := by
  intro s t c h hr hs ht
  obtain ⟨u, he, hb⟩ := step_effect h
  have hparked : t.parked = u.parked := eq_of_block_eq State.parked hb
  have hevt : t.evt = u.evt := eq_of_block_eq State.evt hb
  rw [hparked] at ht
  rw [hevt]
  exact he.parked_cleared hr hs ht

/-- `WAIT_RESUME p` as one equation (R127). -/
theorem waitResume_eq (p : Port) (s : State) :
    waitResume p s = .next
      (if s.parked.get p = true ∧ s.evt.get p = true then
        { s with evt := s.evt.set p false, parked := s.parked.set p false }
       else s) := by
  simp only [waitResume, waitResumeEnabled, Bool.and_eq_true, hold]
  split
  · rfl
  · rfl

/-- Settles O37: the scheduled event is the step. -/
theorem waitResumeConsumesEvent : Obligations.WaitResumeConsumesEvent := by
  intro s p later hwf hsched
  rw [step_event (Config.configProblem_none hwf) hsched]
  exact waitResume_eq p { s with schedule := later }

/-! ### The common checks (R120) -/

theorem admissionProblem_notReady (hr : s.ready = false) :
    admissionProblem s i = some (.notReady s.port (encode i)) := by
  simp [admissionProblem, hr]

/-- Settles O21: the rights check passes, and the check of readiness comes before the lockout and the own rule. -/
theorem notReadyFaults : Obligations.NotReadyFaults := by
  intro i s hr hport hidx
  obtain ⟨own, ho⟩ := exec_checked i s
  simp only [ho, checked, rightsProblem_none hport hidx, admissionProblem_notReady hr]

/-- A transaction for both ports and without an index passes the checks in a ready state without the lockout. -/
theorem checked_admitted {own : Result} (hp : port0Only i = false) (hv : ∀ idx, i ≠ .rdVdt idx) (hr : s.ready = true)
    (hb : s.port = .p0 → lockoutListed i = true → s.bsq.state.busy = false) : checked i s own = own :=
  checked_pass (rightsProblem_any hp hv) (admissionProblem_none hr hb)

/-! ### The identifier and status reads, which the lockout does not list (R121, R122) -/

theorem exec_rdCpuid (hr : s.ready = true) : exec .rdCpuid s = answer (cpuidWord s.port) s :=
  checked_admitted (i := .rdCpuid) rfl nofun hr nofun

theorem exec_rdSt (hr : s.ready = true) : exec .rdSt s = answer (statusWord s s.port) s :=
  checked_admitted (i := .rdSt) rfl nofun hr nofun

theorem cpuidWord_eq (p : Port) : cpuidWord p = if p = .p1 then 1#32 else 0#32 := by
  cases p with
  | p0 => rfl
  | p1 => rfl

/-- Settles O5: the word of the identifier read is the number of the port. -/
theorem cpuidReadReturnsPort : Obligations.CpuidReadReturnsPort := by
  intro s hr
  rw [exec_rdCpuid hr, cpuidWord_eq, answer]

/-- The status word, flag by flag from bit 0 up (R32). -/
theorem statusWord_eq_concat (s : State) (p : Port) : statusWord s p =
    (((((0#27).concat (s.evt.get p)).concat (txFull s p)).concat (txEmpty s p)).concat (rxFull s p)).concat
      (rxEmpty s p) :=
  rfl

/-- The flags stand at the bits 0 to 4 of the status word, and no other bit is set (R32). -/
theorem getLsbD_statusWord (s : State) (p : Port) (n : Nat) : (statusWord s p).getLsbD n =
    [rxEmpty s p, rxFull s p, txEmpty s p, txFull s p, s.evt.get p].getD n false := by
  rw [statusWord_eq_concat]
  match n with
  | 0 | 1 | 2 | 3 | 4 | k + 5 => simp

/-- Settles O6: the word of the status read, bit by bit. -/
theorem statusReadReturnsFlags : Obligations.StatusReadReturnsFlags := by
  intro s hr
  have hbit := getLsbD_statusWord s s.port
  refine ⟨statusWord s s.port, exec_rdSt hr, hbit 0, hbit 1, hbit 2, hbit 3, hbit 4, fun n hn => ?_⟩
  obtain ⟨k, rfl⟩ := Nat.exists_eq_add_of_le' hn
  exact hbit (k + 5)

/-! ### The four transactions of the lockout, where it does not apply (R123 to R126) -/

section
variable (hr : s.ready = true) (hb : s.port = .p0 → s.bsq.state.busy = false)
include hr hb

theorem exec_wrTx : exec (.wrTx d) s =
    if s.full.get s.port then .fault (.channelCorrupt s.port .writeWhileFull) else finish (s.push s.port d) :=
  checked_admitted (i := .wrTx d) rfl nofun hr fun hp _ => hb hp

theorem exec_rdRx : exec .rdRx s =
    if s.full.get s.port.other then s.readReg (slotOf s.port.other) fun v => answer v (s.pop s.port.other v)
    else .fault (.channelCorrupt s.port.other .readWhileEmpty) :=
  checked_admitted (i := .rdRx) rfl nofun hr fun hp _ => hb hp

theorem exec_wrWake : exec (.wrWake d) s = finish (s.wake (.core s.port)) :=
  checked_admitted (i := .wrWake d) rfl nofun hr fun hp _ => hb hp

theorem exec_wrWait : exec (.wrWait d) s =
    if (s.active.get s.port).isSome then .fault (.waitInHandler s.port)
    else if s.evt.get s.port then finish { s with evt := s.evt.set s.port false }
    else finish { s with parked := s.parked.set s.port true } :=
  checked_admitted (i := .wrWait d) rfl nofun hr fun hp _ => hb hp

end

/-- Settles O7: the slot is empty, so the push completes. -/
theorem txPushesWord : Obligations.TxPushesWord := by
  intro d s hr hb hclear
  rw [exec_wrTx hr hb, hclear]
  rfl

/-- Settles O8: the slot is full and written, so the pop completes with its word. -/
theorem rxPopsWord : Obligations.RxPopsWord := by
  intro v s hr hb hfull hv
  rw [exec_rdRx hr hb, if_pos hfull, readReg_written (by rw [hv]), hv]
  rfl

/-- The latches after a wake, core by core (R125). -/
theorem wokenLatches_eq (s : State) : wokenLatches s =
    if s.cfg.evtLatch then ⟨true, true⟩ else ⟨s.evt.c0 || s.parked.c0, s.evt.c1 || s.parked.c1⟩ := by
  cases h : s.cfg.evtLatch with
  | false => simp [wokenLatches, Pair.map, h]
  | true => simp [wokenLatches, Pair.map, h]

/-- Settles O9: the broadcast is the transaction's whole effect. -/
theorem wakeSetsLatches : Obligations.WakeSetsLatches := by
  intro d s hr hb
  rw [exec_wrWake hr hb, ← wokenLatches_eq]
  rfl

/-- Settles O10: outside a handler the latch decides between the two effects. -/
theorem waitConsumesEventOrParks : Obligations.WaitConsumesEventOrParks := by
  intro d s hr hb hactive
  rw [exec_wrWait hr hb, hactive]
  cases s.evt.get s.port with
  | false => rfl
  | true => rfl

/-- Settles O24: each misuse is the arm of the own rule that raises the fault. -/
theorem mailboxMisuseFaults : Obligations.MailboxMisuseFaults := by
  intro d s hr hb
  refine ⟨fun hfull => ?_, fun hclear => ?_, fun hactive => ?_⟩
  · rw [exec_wrTx hr hb, if_pos hfull]
  · rw [exec_rdRx hr hb, hclear]
    rfl
  · rw [exec_wrWait hr hb, if_pos (Option.isSome_iff_ne_none.mpr hactive)]

end Sys2Proof.Machine
end

section
/-! SUPPORT. What the family 41_boot_sequencer.md needs, first part: the handshake of R178. Who drives port 1 while
core 1 is halted, where sequencer and responder stand, and that every effect of `StepEffect` but `RESET` keeps them in
step. -/

namespace Sys2Proof.Machine

variable {o : Option Event} {e : Event} {i : Instr} {s t u : State} {p : Port} {v w : Word}

/-! ### Who drives port 1 (R29, R177) -/

/-- From `s` to `t` nothing was pushed from port 1 and nothing popped there: direction 1 was not filled, and direction
0 not emptied. -/
def PortOneStill (s t : State) : Prop :=
  (t.full.c1 = true → s.full.c1 = true) ∧ (s.full.c0 = true → t.full.c0 = true)

theorem PortOneStill.of_full_eq (h : t.full = s.full) : PortOneStill s t := by
  rw [PortOneStill, h]
  exact ⟨id, id⟩

/-- A transaction on port 0 can fill direction 0 and empty direction 1, and no more. -/
theorem exec_portOneStill (h : exec i s = .next t) (hp : s.port = .p0) : PortOneStill s t := by
  obtain ⟨v, rfl⟩ | ⟨d, -, -, -, rfl⟩ | ⟨v, -, -, -, -, rfl⟩ | ⟨d, -, rfl⟩ | ⟨d, -, -, -, rfl⟩ | ⟨d, -, -, -, rfl⟩ |
    ⟨r, d, -, -, rfl⟩ | ⟨-, -, -, -, -, rfl⟩ | ⟨v, -, rfl⟩ | ⟨d, -, rfl⟩ := exec_next h
  case inr.inl => simp [PortOneStill, hp]
  case inr.inr.inl => simp [PortOneStill, hp]
  all_goals exact .of_full_eq rfl

theorem enterHandler_full {c : Port} {idx : Nat} (h : enterHandler c idx s = .next t) : t.full = s.full := by
  obtain ⟨handler, kind, -, -, rfl⟩ := enterHandler_next h
  rfl

/-- The stream of core 0 issues its transactions on port 0; its other steps leave the mailbox. -/
theorem coreStep_portOneStill (h : coreStep .p0 s = .next t) : PortOneStill s t := by
  obtain rfl | ⟨-, ⟨_, _, _, _, _, i, u, -, -, -, hu, rfl⟩ | ⟨n, rest, h⟩ | ⟨v, rest, names, rfl⟩ |
    ⟨rest, names, rfl⟩⟩ := coreStep_next h
  · exact .of_full_eq rfl
  · have hstill := exec_portOneStill hu rfl
    exact hstill
  · obtain ⟨-, -, ⟨-, rfl⟩ | ⟨-, -, -, h⟩⟩ := exception_next h
    · exact .of_full_eq rfl
    · have hfull := enterHandler_full h
      exact .of_full_eq hfull
  · exact .of_full_eq rfl
  · exact .of_full_eq rfl

/-- The sequencer sends on direction 0 and receives on direction 1 (R153, R155, R157). -/
theorem bsqStep_portOneStill (h : bsqStep s = .next t) : PortOneStill s t := by
  obtain rfl | ⟨-, -, ⟨-, -, -, rfl⟩ | ⟨-, -, rfl⟩ | ⟨-, rfl⟩ | ⟨-, -, -, w, -, rfl⟩ | ⟨-, rfl⟩ |
    ⟨-, -, -, -, w, -, ⟨-, rfl⟩ | ⟨-, rfl⟩⟩⟩ := bsqStep_next h
  · exact .of_full_eq rfl
  · exact ⟨nofun, id⟩
  · exact .of_full_eq rfl
  · exact .of_full_eq rfl
  · exact ⟨id, fun _ => rfl⟩
  · exact .of_full_eq rfl
  · exact ⟨nofun, id⟩
  · exact ⟨nofun, id⟩

/-- The responder uses port 1 only in a step that moves its phase. -/
theorem pblStep_portOneStill (h : pblStep s = .next t) (hpbl : t.pbl = s.pbl) : PortOneStill s t := by
  have hphase := congrArg Pbl.phase hpbl
  obtain rfl | ⟨-, -, -, ⟨hp, -, -, -, rfl⟩ | ⟨hp, -, rfl⟩ | ⟨-, rfl⟩ | ⟨-, -, -, -, rfl⟩⟩ := pblStep_next h
  · exact .of_full_eq rfl
  · cases hphase.trans hp
  · cases hphase.trans hp
  · exact .of_full_eq rfl
  · exact .of_full_eq rfl

/-- While core 1 is halted and no simulated peer drives port 1, only the responder uses it. -/
theorem runEvent_portOneStill (h : runEvent e s = .next t) (he : e ≠ .reset) (hrun : s.c1Running = false)
    (hpeer : s.cfg.peer = .pbl) (hpbl : t.pbl = s.pbl) : PortOneStill s t := by
  cases e with
  | reset => exact absurd rfl he
  | readyUp =>
    obtain ⟨-, rfl⟩ | ⟨-, rfl⟩ := readyUp_next h
    · exact .of_full_eq rfl
    · exact .of_full_eq rfl
  | edge n =>
    obtain rfl | ⟨-, -, rfl⟩ := edge_next h
    · exact .of_full_eq rfl
    · exact .of_full_eq rfl
  | dispatch c =>
    obtain ⟨-, rfl⟩ | ⟨-, n, -, h⟩ := dispatch_next h
    · exact .of_full_eq rfl
    · exact .of_full_eq (enterHandler_full h)
  | hret c =>
    obtain ⟨-, rfl⟩ | ⟨-, rfl⟩ := hret_next h
    · exact .of_full_eq rfl
    · exact .of_full_eq rfl
  | trap c =>
    cases (trap_eq c s).symm.trans h
    exact .of_full_eq rfl
  | waitResume c =>
    obtain ⟨-, rfl⟩ | ⟨-, rfl⟩ := waitResume_next h
    · exact .of_full_eq rfl
    · exact .of_full_eq rfl
  | bsqStep => exact bsqStep_portOneStill h
  | pblStep => exact pblStep_portOneStill h hpbl
  | env op =>
    obtain rfl | ⟨-, henv, -⟩ := envStep_next h
    · exact .of_full_eq rfl
    · cases hpeer.symm.trans henv
  | core c =>
    cases c with
    | p0 => exact coreStep_portOneStill h
    | p1 =>
      have hhalted : coreRuns s .p1 = false := hrun
      cases (coreStep_halted hhalted).symm.trans h
      exact .of_full_eq rfl

theorem step_portOneStill (h : step s = .next t) (hr : s.schedule.head? ≠ some .reset) (hrun : s.c1Running = false)
    (hpeer : s.cfg.peer = .pbl) (hpbl : t.pbl = s.pbl) : PortOneStill s t := by
  obtain ⟨-, ⟨-, rfl⟩ | ⟨e, later, hs, h⟩⟩ := step_next h
  · exact .of_full_eq rfl
  · have hne : e ≠ .reset := fun he => hr (by rw [hs, he]; rfl)
    exact runEvent_portOneStill (s := { s with schedule := later }) h hne hrun hpeer hpbl

/-! ### The position of the two agents (R152 to R157, R171 to R173) -/

/-- The word a step of the sequencer works with is the command word of its step. -/
theorem IsCommand.eq_commandWord (h : IsCommand s w) : w = commandWord s s.bsq.k := by
  obtain ⟨hk, rfl⟩ | ⟨hk, rfl⟩ | ⟨hk, hx⟩ | ⟨hk, hx⟩ | ⟨hk, hx⟩ := h
  · obtain hk | hk := Nat.le_one_iff_eq_zero_or_eq_one.mp hk
    · simp [commandWord, hk]
    · simp [commandWord, hk]
  all_goals simp [commandWord, *]

/-- The command words are those of the sequencer's three registers. -/
theorem commandWord_congr
    (hx : u.x.bsqVtor = s.x.bsqVtor ∧ u.x.bsqSp = s.x.bsqSp ∧ u.x.bsqEntry = s.x.bsqEntry) (k : BitVec 3) :
    commandWord u k = commandWord s k := by
  obtain ⟨hvt, hsp, hentry⟩ := hx
  simp only [commandWord, hvt, hsp, hentry]

/-- The sequencer has pushed the word of its step, and waits for the acknowledgement. -/
abbrev HasSent (b : Bsq) : Prop := b.phase = .sendWake ∨ b.phase = .recv

/-- A full direction 0 holds the word of the step. -/
theorem HandshakePosition.of_full0 (h : HandshakePosition s) (hf : s.full.c0 = true) :
    HasSent s.bsq ∧ s.full = ⟨true, false⟩ ∧ s.x.slot0 = ⟨commandWord s s.bsq.k, true⟩ ∧
      responderAwaits s s.bsq.k := by
  by_cases hsent : HasSent s.bsq
  · obtain hword | ⟨hfull, -⟩ | ⟨hfull, -⟩ := h.1 hsent
    · exact ⟨hsent, hword⟩
    · simp [hfull] at hf
    · simp [hfull] at hf
  · simp [(h.2 hsent).1] at hf

/-- A full direction 1 holds the acknowledgement of the step. -/
theorem HandshakePosition.of_full1 (h : HandshakePosition s) (hf : s.full.c1 = true) :
    HasSent s.bsq ∧ s.full = ⟨false, true⟩ ∧ s.x.slot1 = ⟨ackFor s.cfg s.bsq.k (commandWord s s.bsq.k), true⟩ ∧
      responderAnswered s s.bsq.k := by
  by_cases hsent : HasSent s.bsq
  · obtain ⟨hfull, -⟩ | ⟨hfull, -⟩ | hack := h.1 hsent
    · simp [hfull] at hf
    · simp [hfull] at hf
    · exact ⟨hsent, hack⟩
  · simp [(h.2 hsent).1] at hf

/-- A responder about to acknowledge holds the word of the step, and both slots are empty. -/
theorem HandshakePosition.of_ack (h : HandshakePosition s) (hp : s.pbl.phase = .ack) :
    HasSent s.bsq ∧ s.full = ⟨false, false⟩ ∧ s.pbl.k = s.bsq.k ∧ s.pbl.w = commandWord s s.bsq.k := by
  by_cases hsent : HasSent s.bsq
  · obtain ⟨-, -, hw⟩ | ⟨hfull, -, hheld⟩ | ⟨-, -, hw⟩ := h.1 hsent
    · simp [responderAwaits, hp] at hw
    · exact ⟨hsent, hfull, hheld⟩
    · simp [responderAnswered, hp] at hw
  · obtain ⟨-, hw⟩ := h.2 hsent
    simp [responderAwaits, hp] at hw

/-- Before the sequencer's send both slots are empty and the responder awaits the step. -/
theorem HandshakePosition.of_unsent (hsent : ¬ HasSent s.bsq) (hfull : s.full = ⟨false, false⟩)
    (haw : responderAwaits s s.bsq.k) : HandshakePosition s :=
  ⟨fun h => absurd h hsent, fun _ => ⟨hfull, haw⟩⟩

/-- After its send the word is in the slot, held by the responder, or acknowledged. -/
theorem HandshakePosition.of_sent (hsent : HasSent s.bsq)
    (h : (s.full = ⟨true, false⟩ ∧ s.x.slot0 = ⟨commandWord s s.bsq.k, true⟩ ∧ responderAwaits s s.bsq.k) ∨
      (s.full = ⟨false, false⟩ ∧ s.pbl.phase = .ack ∧ s.pbl.k = s.bsq.k ∧ s.pbl.w = commandWord s s.bsq.k) ∨
      (s.full = ⟨false, true⟩ ∧ s.x.slot1 = ⟨ackFor s.cfg s.bsq.k (commandWord s s.bsq.k), true⟩ ∧
        responderAnswered s s.bsq.k)) : HandshakePosition s :=
  ⟨fun _ => h, fun hn => absurd hsent hn⟩

/-- A responder that holds no word moves on as the position allows, whether it awaits the step or has answered it. -/
theorem HandshakePosition.of_responder (h : HandshakePosition s) (hack : s.pbl.phase ≠ .ack) (hx : u.x = s.x)
    (hfull : u.full = s.full) (hbsq : u.bsq = s.bsq) (hcfg : u.cfg = s.cfg)
    (haw : responderAwaits s s.bsq.k → responderAwaits u s.bsq.k)
    (hans : responderAnswered s s.bsq.k → responderAnswered u s.bsq.k) : HandshakePosition u := by
  have hcmd : commandWord u s.bsq.k = commandWord s s.bsq.k := commandWord_congr (by simp [hx]) _
  rw [HandshakePosition, hx, hfull, hbsq, hcfg, hcmd]
  refine ⟨fun hsent => ?_, fun hsent => (h.2 hsent).imp_right haw⟩
  obtain ⟨hf, hs, hw⟩ | ⟨-, hp, -⟩ | ⟨hf, hs, hw⟩ := h.1 hsent
  · exact .inl ⟨hf, hs, haw hw⟩
  · exact absurd hp hack
  · exact .inr (.inr ⟨hf, hs, hans hw⟩)

/-! ### What no step does to a handshake in step -/

/-- A step has no effect of a busy sequencer unless it finds it busy, and `GO` none once it has started. -/
theorem StepEffect.busy_before (he : StepEffect o s u) (hr : o ≠ some .reset) (hi : s.bsq.state ≠ .idle)
    (hu : u.bsq.state.busy = true) : s.bsq.state.busy = true := by
  cases he with
  | reset ho => exact absurd ho hr
  | go hidle => exact absurd hidle hi
  | seqMatch w hb => exact hb
  | _ => exact hu

/-- Once core 1 runs beside a busy sequencer, the last acknowledgement is in the slot. -/
theorem HandshakeInStep.full_of_running (hs : HandshakeInStep s) (hb : s.bsq.state.busy = true)
    (hrun : s.c1Running = true) : s.full = ⟨false, true⟩ := by
  obtain ⟨⟨-, hseq, -, hresp, -⟩, -, -, -, -, -, hpos, -⟩ := hs
  obtain ⟨hk, -⟩ := (sequencerConsistent_busy hb).mp hseq
  obtain ⟨hpk, hpp, -⟩ := hresp.1 hrun
  have haw : ¬ responderAwaits s s.bsq.k := by
    rintro (⟨-, h⟩ | ⟨h, -⟩)
    · rw [← h, hpk] at hk
      exact absurd hk (by decide)
    · cases hpp.symm.trans h
  by_cases hsent : HasSent s.bsq
  · obtain ⟨-, -, h⟩ | ⟨-, h, -⟩ | ⟨h, -⟩ := (hpos hb).1 hsent
    · exact absurd h haw
    · cases hpp.symm.trans h
    · exact h
  · exact absurd ((hpos hb).2 hsent).2 haw

/-- No transaction pushes while the sequencer is busy: port 0 is locked out, and port 1 has no driver but the responder
until core 1 runs, when direction 1 is full. -/
theorem HandshakeInStep.no_tx (hs : HandshakeInStep s) (hb : s.bsq.state.busy = true)
    (hport : s.c1Running = false → PortOneStill s (s.push p v)) (hlock : p = .p0 → s.bsq.state.busy = false)
    (hclear : s.full.get p = false) : False := by
  cases p with
  | p0 => cases hb.symm.trans (hlock rfl)
  | p1 =>
    cases hrun : s.c1Running with
    | false => cases hclear.symm.trans ((hport hrun).1 rfl)
    | true => simp [hs.full_of_running hb hrun] at hclear

/-- No transaction pops while the sequencer is busy, for the same reasons. -/
theorem HandshakeInStep.no_rx (hs : HandshakeInStep s) (hb : s.bsq.state.busy = true)
    (hport : s.c1Running = false → PortOneStill s (s.pop p.other v)) (hlock : p = .p0 → s.bsq.state.busy = false)
    (hfull : s.full.get p.other = true) : False := by
  cases p with
  | p0 => cases hb.symm.trans (hlock rfl)
  | p1 =>
    cases hrun : s.c1Running with
    | false => cases (hport hrun).2 hfull
    | true => simp [hs.full_of_running hb hrun] at hfull

/-- An acknowledgement that has arrived is the expected one. -/
theorem HandshakePosition.ack_matches (h : HandshakePosition s) (hf : s.full.c1 = true) (hw : IsCommand s w) :
    s.x.slot1.val = ackFor s.cfg s.bsq.k w := by
  obtain ⟨-, -, hslot, -⟩ := h.of_full1 hf
  rw [hslot, hw.eq_commandWord]

/-- A halted responder that receives has a busy sequencer to receive from. -/
theorem HandshakeInStep.busy_of_receiving (hs : HandshakeInStep s) (hrun : s.c1Running = false)
    (hp : s.pbl.phase = .recv) : s.bsq.state.busy = true := by
  obtain ⟨⟨-, -, -, hresp, -⟩, -, hi, -, -, -, -, hdone⟩ := hs
  have hk := responder_step_le hresp hrun (by simp [hp])
  cases hst : s.bsq.state with
  | idle => exact absurd hst hi
  | peerRunning =>
    obtain h | ⟨h, -⟩ | ⟨-, h⟩ | ⟨h, -⟩ := hdone hst
    · cases hrun.symm.trans h
    · cases hp.symm.trans h
    · rw [h] at hk
      exact absurd hk (by decide)
    · cases hp.symm.trans h
  | _ => rfl

/-- A finished sequencer without a running core 1 has left the responder at its last wake or at the launch. -/
theorem HandshakeInStep.answered_of_halted (hs : HandshakeInStep s) (hst : s.bsq.state = .peerRunning)
    (hrun : s.c1Running = false) :
    (s.pbl.phase = .ackWake ∧ s.pbl.k = 5#3) ∨ (s.pbl.phase = .launch ∧ s.pbl.k = 6#3) := by
  have hrecv : s.pbl.phase ≠ .recv := fun hp => by
    have hb := hs.busy_of_receiving hrun hp
    rw [hst] at hb
    cases hb
  obtain ⟨-, -, -, -, -, -, -, hdone⟩ := hs
  obtain h | h | ⟨h, -⟩ | h := hdone hst
  · cases hrun.symm.trans h
  · exact .inl h
  · exact absurd h hrecv
  · exact .inr h

/-- The launch comes at step 6 (R173, R176). -/
theorem responder_launch_step (h : ResponderConsistent s) (hp : s.pbl.phase = .launch) : s.pbl.k = 6#3 := by
  cases hrun : s.c1Running with
  | false => simpa [hp] using h.2.1 hrun
  | true => cases hp.symm.trans (h.1 hrun).2.1

/-! ### Every effect keeps the handshake in step -/

theorem stateOfStep_ne_idle (k : BitVec 3) : stateOfStep k ≠ .idle := by
  revert k
  decide

/-- Of the steps 0 to 5 only the last one leads to `PEER_RUNNING` (R151, R157). -/
theorem stateOfStep_peerRunning {k : BitVec 3} (hk : k.toNat ≤ 5) (h : stateOfStep (k + 1#3) = .peerRunning) :
    k = 5#3 := by
  revert k
  decide

/-- A step starts before its send (R152, R157). -/
theorem advancedSequencer_unsent (b : Bsq) : ¬ HasSent (advancedSequencer b) := by
  simp only [advancedSequencer, firstPhase]
  split
  · simp
  · split
    · simp
    · simp

/-- A responder that has answered a step, but for the last one, awaits the next. -/
theorem awaits_next_of_answered {k : BitVec 3} (hresp : ResponderConsistent s) (h : responderAnswered s k)
    (hk : k + 1#3 ≠ 6#3) : responderAwaits s (k + 1#3) := by
  obtain ⟨hp, hpk⟩ | ⟨hp, hpk⟩ | ⟨hp, hpk⟩ := h
  · exact .inr ⟨hp, by rw [hpk]⟩
  · exact .inl ⟨hp, hpk⟩
  · exact absurd (hpk.symm.trans (responder_launch_step hresp hp)) hk

/-- After its wake the responder awaits the step it was woken for, or has answered and gone on. -/
theorem ackWake_awaits {k : BitVec 3} (hp : s.pbl.phase = .ackWake) (hk : k ≤ 5#3) (h : responderAwaits s k) :
    (if s.pbl.k + 1#3 = 6#3 then PblPhase.launch else .recv) = .recv ∧ s.pbl.k + 1#3 = k := by
  have hpk : s.pbl.k + 1#3 = k := by simpa [responderAwaits, hp] using h
  refine ⟨if_neg ?_, hpk⟩
  intro h6
  rw [← hpk, h6] at hk
  exact absurd hk (by decide)

/-- After its wake the responder that has answered step `k` is past it. -/
theorem ackWake_moves_on {k : BitVec 3} (hk : s.pbl.k = k) :
    ((if s.pbl.k + 1#3 = 6#3 then PblPhase.launch else .recv) = .recv ∧ s.pbl.k + 1#3 = k + 1#3) ∨
      ((if s.pbl.k + 1#3 = 6#3 then PblPhase.launch else .recv) = .launch ∧ s.pbl.k + 1#3 = k + 1#3) :=
  (ite_eq_or_eq (s.pbl.k + 1#3 = 6#3) PblPhase.launch .recv).symm.imp (⟨·, by rw [hk]⟩) (⟨·, by rw [hk]⟩)

/-- While the sequencer stays busy, every effect leaves the two agents in position. -/
theorem StepEffect.handshakePosition (he : StepEffect o s u) (hr : o ≠ some .reset) (hs : HandshakeInStep s)
    (hport : s.c1Running = false → u.pbl = s.pbl → PortOneStill s u) (hu : u.bsq.state.busy = true) :
    HandshakePosition u := by
  have hin := hs
  obtain ⟨⟨-, hseq, -, hresp, -⟩, -, hi, -, -, -, hpos, -⟩ := hin
  have hb := he.busy_before hr hi hu
  have hpos := hpos hb
  obtain ⟨hk, -⟩ := (sequencerConsistent_busy hb).mp hseq
  cases he with
  | reset ho => exact absurd ho hr
  | tx p v hlock hclear => exact (hs.no_tx hb (hport · rfl) hlock hclear).elim
  | rx p v hlock hfull => exact (hs.no_rx hb (hport · rfl) hlock hfull).elim
  | writeSeq r v hseq hidle => exact absurd hidle hi
  | go hidle => exact absurd hidle hi
  | seqDrain _ hp hfull =>
    obtain ⟨hsent, -⟩ := hpos.of_full1 hfull
    simp [HasSent, hp] at hsent
  | seqDrained _ hp | seqWake _ hp =>
    obtain ⟨hfull, haw⟩ := hpos.2 (by simp [hp])
    exact .of_unsent (by simp) hfull haw
  | seqSend w _ hp hclear hw =>
    obtain ⟨hfull, haw⟩ := hpos.2 (by simp [hp])
    refine .of_sent (.inl rfl) (.inl ⟨by simp [hfull], ?_, haw⟩)
    rw [hw.eq_commandWord]
    rfl
  | seqSendWake _ hp => exact .of_sent (.inr rfl) (hpos.1 (.inl hp))
  | seqMatch w _ hp hfull =>
    obtain ⟨-, hempty, -, hans⟩ := hpos.of_full1 hfull
    have hlast : s.bsq.k + 1#3 ≠ 6#3 := fun h6 => by
      have hbusy : (stateOfStep (s.bsq.k + 1#3)).busy = true := hu
      rw [h6] at hbusy
      cases hbusy
    exact .of_unsent (advancedSequencer_unsent _) (by simp [hempty]) (awaits_next_of_answered hresp hans hlast)
  | seqMismatch w _ hp hfull _ hw hne => exact absurd (hpos.ack_matches hfull hw) hne
  | respReceive hrun hpeer hp hfull =>
    obtain ⟨hsent, hempty, hslot, haw⟩ := hpos.of_full0 hfull
    have hpk : s.pbl.k = s.bsq.k := by simpa [responderAwaits, hp] using haw
    exact .of_sent hsent (.inr (.inl ⟨by simp [hempty], rfl, hpk, congrArg Reg.val hslot⟩))
  | respAck hrun hpeer hp hclear =>
    obtain ⟨hsent, hempty, hpk, hpw⟩ := hpos.of_ack hp
    refine .of_sent hsent (.inr (.inr ⟨by simp [hempty], ?_, .inl ⟨rfl, hpk⟩⟩))
    rw [hpk, hpw]
    rfl
  | respAckWake hrun hpeer hp =>
    refine hpos.of_responder (by simp [hp]) rfl rfl rfl rfl (fun haw => ?_) (fun hans => ?_)
    · exact .inl (ackWake_awaits hp hk haw)
    · have hpk : s.pbl.k = s.bsq.k := by simpa [responderAnswered, hp] using hans
      exact .inr (ackWake_moves_on hpk)
  | respLaunch ho hrun hpeer hp =>
    refine hpos.of_responder (by simp [hp]) rfl rfl rfl rfl (fun haw => ?_) (fun hans => ?_)
    · simp [responderAwaits, hp] at haw
    · exact .inr (.inl ⟨rfl, by simpa [responderAnswered, hp] using hans⟩)
  | _ => exact hpos

/-- The captured words agree whatever the other elements, as long as the registers of both sides and the responder
stay. -/
theorem capturedAgree_congr
    (hlaunch : u.x.c1Vtor = s.x.c1Vtor ∧ u.x.c1Sp = s.x.c1Sp ∧ u.x.c1Pc = s.x.c1Pc)
    (hboot : u.x.bsqVtor = s.x.bsqVtor ∧ u.x.bsqSp = s.x.bsqSp ∧ u.x.bsqEntry = s.x.bsqEntry)
    (hrecv : ∀ n, hasReceived u.pbl n → hasReceived s.pbl n) (h : CapturedAgree s) : CapturedAgree u := by
  obtain ⟨hvt, hsp, hpc⟩ := hlaunch
  obtain ⟨hbvt, hbsp, hbentry⟩ := hboot
  obtain ⟨h3, h4, h5⟩ := h
  rw [CapturedAgree, hvt, hsp, hpc, hbvt, hbsp, hbentry]
  exact ⟨fun hr => h3 (hrecv _ hr), fun hr => h4 (hrecv _ hr), fun hr => h5 (hrecv _ hr)⟩

/-- A register kept at step `n` is `b`, by the step that keeps it or from before. -/
theorem captured_eq {k n : BitVec 3} {w : Word} {r b : Reg} (hkept : k = n → (⟨w, true⟩ : Reg) = b)
    (hbefore : k ≠ n → r = b) : (if k = n then ⟨w, true⟩ else r) = b := by
  split
  · exact hkept ‹_›
  · exact hbefore ‹_›

/-- The command words of the steps 3 to 5 are the contents of the sequencer's registers (R150). -/
theorem commandWord_registers (h : BootWordsReady s) (hi : s.bsq.state ≠ .idle) :
    ⟨commandWord s 3#3, true⟩ = s.x.bsqVtor ∧ ⟨commandWord s 4#3, true⟩ = s.x.bsqSp ∧
      ⟨commandWord s 5#3, true⟩ = s.x.bsqEntry := by
  obtain ⟨hvt, hsp, hentry⟩ := h hi
  exact ⟨congrArg (Reg.mk s.x.bsqVtor.val) (congrArg Reg.written hvt).symm, congrArg (Reg.mk _) hsp.symm,
    congrArg (Reg.mk _) hentry.symm⟩

theorem StepEffect.capturedAgree (he : StepEffect o s u) (hr : o ≠ some .reset) (hs : HandshakeInStep s) :
    CapturedAgree u := by
  have hin := hs
  obtain ⟨⟨-, -, hboot, hresp, -⟩, -, hi, -, -, hcap, hpos, -⟩ := hin
  cases he with
  | reset ho => exact absurd ho hr
  | writeSeq r v hseq hidle => exact absurd hidle hi
  | tx p v =>
    exact capturedAgree_congr (s.x.write_slot_launchWords p v) (s.x.write_slot_bsqWords p v) (fun _ => id) hcap
  | seqSend w =>
    exact capturedAgree_congr (s.x.write_slot_launchWords .p0 w) (s.x.write_slot_bsqWords .p0 w) (fun _ => id) hcap
  | respReceive hrun hpeer hp hfull =>
    obtain ⟨-, -, hslot, haw⟩ := (hpos (hs.busy_of_receiving hrun hp)).of_full0 hfull
    have hpk : s.pbl.k = s.bsq.k := by simpa [responderAwaits, hp] using haw
    rw [← hpk] at hslot
    obtain ⟨hvt, hsp, hentry⟩ := commandWord_registers hboot hi
    obtain ⟨h3, h4, h5⟩ := hcap
    have hkept {n : BitVec 3} {b : Reg} (hb : ⟨commandWord s n, true⟩ = b) (hk : s.pbl.k = n) :
        (⟨s.x.slot0.val, true⟩ : Reg) = b := by
      rw [hslot, hk]
      exact hb
    exact ⟨fun hrc => captured_eq (hkept hvt) fun hne => h3 (hasReceived_ack hrc hne),
      fun hrc => captured_eq (hkept hsp) fun hne => h4 (hasReceived_ack hrc hne),
      fun hrc => captured_eq (hkept hentry) fun hne => h5 (hasReceived_ack hrc hne)⟩
  | respAck hrun hpeer hp =>
    exact capturedAgree_congr (s.x.write_slot_launchWords .p1 _) (s.x.write_slot_bsqWords .p1 _)
      (fun _ hrc => hasReceived_ackWake hrc hp) hcap
  | respAckWake hrun hpeer hp =>
    have hk := responder_step_le hresp hrun (by simp [hp])
    exact capturedAgree_congr (s := s) ⟨rfl, rfl, rfl⟩ ⟨rfl, rfl, rfl⟩
      (fun _ => hasReceived_next (p := s.pbl) hk hp (ite_eq_or_eq _ _ _)) hcap
  | respLaunch ho hrun hpeer hp =>
    exact capturedAgree_congr (s := s) ⟨rfl, rfl, rfl⟩ ⟨rfl, rfl, rfl⟩ (fun _ hrc => hrc.imp id (by simp)) hcap
  | _ => exact hcap

/-- A sequencer that reaches `PEER_RUNNING` has had its last acknowledgement, and the responder only goes on to the
launch from there. -/
theorem StepEffect.answered_or_running (he : StepEffect o s u) (hr : o ≠ some .reset) (hs : HandshakeInStep s)
    (hu : u.bsq.state = .peerRunning) : u.c1Running = true ∨ responderAnswered u 5#3 := by
  have hin := hs
  obtain ⟨-, -, hi, -, -, -, hpos, hdone⟩ := hin
  cases he with
  | reset ho => exact absurd ho hr
  | go => cases hu
  | seqMatch w hb hp hfull hk =>
    obtain ⟨-, -, -, hans⟩ := (hpos hb).of_full1 hfull
    have hlast : s.bsq.k = 5#3 := stateOfStep_peerRunning hk hu
    exact .inr (hlast ▸ hans)
  | respReceive hrun hpeer hp =>
    have hb := hs.busy_of_receiving hrun hp
    rw [show s.bsq.state = .peerRunning from hu] at hb
    cases hb
  | respAck hrun hpeer hp =>
    have h := hs.answered_of_halted hu hrun
    simp [hp] at h
  | respAckWake hrun hpeer hp =>
    have h := hs.answered_of_halted hu hrun
    have hk : s.pbl.k = 5#3 := by simpa [hp] using h
    exact .inr (.inr (ackWake_moves_on hk))
  | respLaunch => exact .inl rfl
  | _ => exact hdone hu

/-- No mismatch: `DESYNC` and `RESENDS` stay 0, and the sequencer does not go back to `IDLE`. -/
theorem StepEffect.no_mismatch (he : StepEffect o s u) (hr : o ≠ some .reset) (hs : HandshakeInStep s) :
    u.bsq.state ≠ .idle ∧ u.bsq.desync = false ∧ u.bsq.resends = 0#32 := by
  obtain ⟨-, -, hi, hd, hres, -, hpos, -⟩ := hs
  cases he with
  | reset ho => exact absurd ho hr
  | go => exact ⟨by simp [startedSequencer], hd, hres⟩
  | seqMatch w hb hp hfull hk => exact ⟨stateOfStep_ne_idle _, hd, hres⟩
  | seqMismatch w hb hp hfull _ hw hne => exact absurd ((hpos hb).ack_matches hfull hw) hne
  | _ => exact ⟨hi, hd, hres⟩

/-- Every effect but `RESET` keeps the handshake in step, given that port 1 has no driver but the responder while core
1 is halted. -/
theorem StepEffect.handshakeInStep (he : StepEffect o s u) (hr : o ≠ some .reset) (hs : HandshakeInStep s)
    (hport : s.c1Running = false → u.pbl = s.pbl → PortOneStill s u) : HandshakeInStep u := by
  obtain ⟨hi, hd, hres⟩ := he.no_mismatch hr hs
  exact ⟨he.inv hr hs.1, by rw [he.cfg_eq]; exact hs.2.1, hi, hd, hres, he.capturedAgree hr hs,
    he.handshakePosition hr hs hport, he.answered_or_running hr hs⟩

/-- Settles O50: the step has an effect on the block, and the handshake is read off the block alone. -/
theorem handshakeStaysInStep : Obligations.HandshakeStaysInStep := by
  intro s t hs h
  refine or_iff_not_imp_left.mpr fun hr => ?_
  obtain ⟨u, he, hb⟩ := step_effect h
  have hpbl : t.pbl = u.pbl := eq_of_block_eq State.pbl hb
  have hfull : t.full = u.full := eq_of_block_eq State.full hb
  have hport : s.c1Running = false → u.pbl = s.pbl → PortOneStill s u := fun hrun hu => by
    have hstill := step_portOneStill h hr hrun hs.2.1 (hpbl.trans hu)
    rwa [PortOneStill, hfull] at hstill
  rw [eq_of_block_eq HandshakeInStep hb]
  exact he.handshakeInStep hr hs hport

end Sys2Proof.Machine
end

section
/-! SUPPORT. What the family 41_boot_sequencer.md needs, second part: the steps of the sequencer, of the responder and of
the simulated peer, one equation per phase and guard (R150 to R158, R170 to R177). -/

namespace Sys2Proof.Machine

variable {s : State} {w : Word}

/-! ### The steps of the sequencer, phase by phase (R153 to R158) -/

/-- The command word of a started sequencer's step is at hand (R150): its registers are written. -/
theorem withCommand_busy {cont : Word → Result} (hb : s.bsq.state.busy = true) (hseq : SequencerConsistent s.bsq)
    (hboot : BootWordsReady s) : withCommand s cont = cont (commandWord s s.bsq.k) := by
  obtain ⟨hvt, hsp, hentry⟩ := hboot (BsqState.ne_idle_of_busy hb)
  have hvt' : (s.x.get .bsqVtor).written = true := congrArg Reg.written hvt
  obtain ⟨hk, -⟩ := (sequencerConsistent_busy hb).mp hseq
  unfold withCommand commandWord
  obtain hk | hk | hk | hk | hk | hk := bootStep_cases hk
  · simp [hk]
  · simp [hk]
  · simp [hk]
  · simp [hk, readReg_written hvt', WordRegs.get]
  · rw [hk]
    exact readReg_written hsp
  · rw [hk]
    exact readReg_written hentry

section
variable (hr : s.ready = true) (hb : s.bsq.state.busy = true)
include hr hb

theorem bsqStep_drain_full (hp : s.bsq.phase = .drain) (hf : s.full.c1 = true) (hw : s.x.slot1.written = true) :
    bsqStep s = .next (s.pop .p1 s.x.slot1.val) := by
  have hdrain : bsqStep s = bsqDrain s := by simp [bsqStep, hr, hb, hp]
  rw [hdrain, bsqDrain, Pair.get_p1, if_pos hf]
  exact readReg_written hw

theorem bsqStep_drain_empty (hp : s.bsq.phase = .drain) (hf : s.full.c1 = false) :
    bsqStep s = .next (s.bsqPhase .wake) := by
  simp [bsqStep, hr, hb, hp, bsqDrain, hf]

theorem bsqStep_wake (hp : s.bsq.phase = .wake) : bsqStep s = .next ((s.wake .bsq).bsqPhase .send) := by
  simp [bsqStep, hr, hb, hp, bsqWake]

theorem bsqStep_send_full (hp : s.bsq.phase = .send) (hf : s.full.c0 = true) : bsqStep s = .next s := by
  simp [bsqStep, hr, hb, hp, bsqSend, hf, hold]

theorem bsqStep_send_empty (hseq : SequencerConsistent s.bsq) (hboot : BootWordsReady s) (hp : s.bsq.phase = .send)
    (hf : s.full.c0 = false) :
    bsqStep s = .next ((s.push .p0 (commandWord s s.bsq.k)).bsqPhase .sendWake) := by
  simp [bsqStep, hr, hb, hp, bsqSend, hf, withCommand_busy hb hseq hboot]

theorem bsqStep_sendWake (hp : s.bsq.phase = .sendWake) : bsqStep s = .next ((s.wake .bsq).bsqPhase .recv) := by
  simp [bsqStep, hr, hb, hp, bsqSendWake]

theorem bsqStep_recv_empty (hp : s.bsq.phase = .recv) (hf : s.full.c1 = false) : bsqStep s = .next s := by
  simp [bsqStep, hr, hb, hp, bsqRecv, hf, hold]

theorem bsqStep_recv_full (hseq : SequencerConsistent s.bsq) (hboot : BootWordsReady s) (hp : s.bsq.phase = .recv)
    (hf : s.full.c1 = true) (hw : s.x.slot1.written = true) :
    bsqStep s =
      if s.x.slot1.val = ackFor s.cfg s.bsq.k (commandWord s s.bsq.k) then
        .next { s.pop .p1 s.x.slot1.val with bsq := advancedSequencer s.bsq }
      else .next ({ s.pop .p1 s.x.slot1.val with bsq := resendingSequencer s.bsq }.log (.resend s.bsq.k)) := by
  have hrecv : bsqStep s = bsqRecv s := by simp [bsqStep, hr, hb, hp]
  have hw' : (s.x.get .slot1).written = true := hw
  rw [hrecv, bsqRecv, Pair.get_p1, if_pos hf, readReg_written hw', withCommand_busy hb hseq hboot]
  rfl

end

/-- Settles O38: the phases that need no word but that of the inbound slot. -/
theorem sequencerDrainAndWake : Obligations.SequencerDrainAndWake := by
  intro s later v hwf hsched hr hb
  have hstep := step_event (Config.configProblem_none hwf) hsched
  refine ⟨fun hp hf hv => ?_, fun hp hf => ?_, fun ph next hmem hp => ?_⟩
  · have hpop := bsqStep_drain_full (s := { s with schedule := later }) hr hb hp hf (congrArg Reg.written hv)
    rw [hv] at hpop
    exact hstep.trans hpop
  · exact hstep.trans (bsqStep_drain_empty (s := { s with schedule := later }) hr hb hp hf)
  · rw [hstep, ← wokenLatches_eq]
    simp only [List.mem_cons, List.not_mem_nil, or_false, Prod.mk.injEq] at hmem
    obtain ⟨rfl, rfl⟩ | ⟨rfl, rfl⟩ := hmem
    · exact bsqStep_wake (s := { s with schedule := later }) hr hb hp
    · exact bsqStep_sendWake (s := { s with schedule := later }) hr hb hp

/-- The command words in the order of the steps (R150). -/
theorem commandWord_listed {k : BitVec 3} (hk : k ≤ 5#3) :
    [0#32, 0#32, 1#32, s.x.bsqVtor.val, s.x.bsqSp.val, s.x.bsqEntry.val][k.toNat]? = some (commandWord s k) := by
  obtain rfl | rfl | rfl | rfl | rfl | rfl := bootStep_cases hk
  all_goals rfl

/-- Settles O39: the invariants give the word that the send phase pushes. -/
theorem sequencerSendsCommand : Obligations.SequencerSendsCommand := by
  intro s later hs hsched hr hb hp
  obtain ⟨hwf, hseq, hboot, -⟩ := hs
  obtain ⟨hk, -⟩ := (sequencerConsistent_busy hb).mp hseq
  have hstep := step_event (Config.configProblem_none hwf) hsched
  refine ⟨fun hf => ?_, fun hf => ⟨commandWord s s.bsq.k, commandWord_listed hk, ?_⟩⟩
  · exact hstep.trans (bsqStep_send_full (s := { s with schedule := later }) hr hb hp hf)
  · exact hstep.trans (bsqStep_send_empty (s := { s with schedule := later }) hr hb hseq hboot hp hf)

/-- The phase after an acknowledgement (R152, R157): the second probe drains again, and the phase field of
`PEER_RUNNING` is that of the drain. -/
theorem firstPhase_next {k : BitVec 3} (hk : k ≤ 5#3) :
    firstPhase (k + 1#3) = if k = 0#3 ∨ k = 5#3 then .drain else .send := by
  obtain rfl | rfl | rfl | rfl | rfl | rfl := bootStep_cases hk
  all_goals rfl

/-- Settles O40: the invariants give the acknowledgement in the slot and the command word it answers. -/
theorem sequencerReceivesAcknowledgement : Obligations.SequencerReceivesAcknowledgement := by
  intro s later hs hsched hr hb hp
  obtain ⟨hwf, hseq, hboot, -, -, -, -, hslots⟩ := hs
  obtain ⟨hk, -⟩ := (sequencerConsistent_busy hb).mp hseq
  have hstep := step_event (Config.configProblem_none hwf) hsched
  have hfull (hf : s.full.c1 = true) :=
    bsqStep_recv_full (s := { s with schedule := later }) hr hb hseq hboot hp hf (hslots .p1 hf)
  refine ⟨fun hf => ?_, fun hf ha => ?_, fun hf ha => ?_⟩
  · exact hstep.trans (bsqStep_recv_empty (s := { s with schedule := later }) hr hb hp hf)
  · rw [hstep, ← firstPhase_next hk]
    exact (hfull hf).trans (if_pos ha)
  · have hhist := List.append_assoc s.hist [.pop .p1 s.x.slot1.val] [.resend s.bsq.k]
    rw [List.singleton_append] at hhist
    rw [hstep, ← hhist]
    exact (hfull hf).trans (if_neg ha)

/-! ### The steps of the responder, phase by phase (R171 to R176) -/

/-- A word that the responder does not take at step `k` (R170, R171): no probe at the steps 0 and 1, no start command
at step 2. -/
theorem deviates_iff (k : BitVec 3) (w : Word) :
    ((expectedWord k).isSome && expectedWord k != some w) = true ↔ (k ≤ 1#3 ∧ w ≠ 0#32) ∨ (k = 2#3 ∧ w ≠ 1#32) := by
  have hcases : ∀ k : BitVec 3, k = 0#3 ∨ k = 1#3 ∨ k = 2#3 ∨ (¬ k ≤ 1#3 ∧ k ≠ 2#3 ∧ expectedWord k = none) := by
    decide
  obtain rfl | rfl | rfl | ⟨h1, h2, hk⟩ := hcases k
  · simp [expectedWord, cmdProbe, @eq_comm _ w]
  · simp [expectedWord, cmdProbe, @eq_comm _ w]
  · simp [expectedWord, cmdStart, @eq_comm _ w]
  · simp [h1, h2, hk]

section
variable (hr : s.ready = true) (hrun : s.c1Running = false) (hpeer : s.cfg.peer = .pbl)
include hr hrun hpeer

theorem pblStep_recv_empty (hp : s.pbl.phase = .recv) (hf : s.full.c0 = false) : pblStep s = .next s := by
  simp [pblStep, hr, hrun, hpeer, hp, pblRecv, hf, hold]

theorem pblStep_recv_full (hp : s.pbl.phase = .recv) (hf : s.full.c0 = true) (hw : s.x.slot0 = ⟨w, true⟩) :
    pblStep s =
      if (s.pbl.k ≤ 1#3 ∧ w ≠ 0#32) ∨ (s.pbl.k = 2#3 ∧ w ≠ 1#32) then .fault (.handshakeDeviation s.pbl.k w)
      else .next { s.pop .p0 w with
        x := capturedRegs s.x s.pbl.k w, pbl := { s.pbl with w := w, phase := .ack } } := by
  have hrecv : pblStep s = pblRecv s := by simp [pblStep, hr, hrun, hpeer, hp]
  have hw' : s.x.get .slot0 = ⟨w, true⟩ := hw
  rw [hrecv, pblRecv, Pair.get_p0, if_pos hf, readReg_written (by rw [hw']), hw', capture_eq_capturedRegs]
  simp only [deviates_iff]
  rfl

theorem pblStep_ack_full (hp : s.pbl.phase = .ack) (hf : s.full.c1 = true) : pblStep s = .next s := by
  simp [pblStep, hr, hrun, hpeer, hp, pblAck, hf, hold]

theorem pblStep_ack_empty (hp : s.pbl.phase = .ack) (hf : s.full.c1 = false) :
    pblStep s = .next { s.push .p1 (ackFor s.cfg s.pbl.k s.pbl.w) with pbl := { s.pbl with phase := .ackWake } } := by
  simp [pblStep, hr, hrun, hpeer, hp, pblAck, hf]

theorem pblStep_ackWake (hp : s.pbl.phase = .ackWake) :
    pblStep s = .next { s.wake .pbl with
      pbl := { s.pbl with k := s.pbl.k + 1#3, phase := if s.pbl.k + 1#3 = 6#3 then .launch else .recv } } := by
  simp [pblStep, hr, hrun, hpeer, hp, pblAckWake]

theorem pblStep_launch (hp : s.pbl.phase = .launch) (hvt : s.x.c1Vtor.written = true) (hsp : s.x.c1Sp.written = true)
    (hpc : s.x.c1Pc.written = true) :
    pblStep s =
      if s.x.c1Vtor.val ≠ s.cfg.vtBase then .fault (.vtorMismatch s.x.c1Vtor.val)
      else .next { s with
        c1Running := true, pc := s.pc.set .p1 s.x.c1Pc.val, pbl := { s.pbl with phase := .recv },
        streams := s.streams.set .p1 ⟨progFor s.cfg s.x.c1Pc.val, []⟩,
        hist := s.hist ++ [.launch s.x.c1Vtor.val s.x.c1Sp.val s.x.c1Pc.val] } := by
  have hlaunch : pblStep s = pblLaunch s := by simp [pblStep, hr, hrun, hpeer, hp]
  have hvt' : (s.x.get .c1Vtor).written = true := hvt
  have hsp' : (s.x.get .c1Sp).written = true := hsp
  have hpc' : (s.x.get .c1Pc).written = true := hpc
  simp only [hlaunch, pblLaunch, readReg_written hvt', readReg_written hsp', readReg_written hpc']
  rfl

end

/-- Settles O41: what the responder keeps for core 1 is `capturedRegs`. -/
theorem responderReceives : Obligations.ResponderReceives := by
  intro s later w hwf hsched hr hrun hpeer hp
  have hstep := step_event (Config.configProblem_none hwf) hsched
  refine ⟨fun hf => ?_, fun hf hw => ?_⟩
  · exact hstep.trans (pblStep_recv_empty (s := { s with schedule := later }) hr hrun hpeer hp hf)
  · have hrecv := pblStep_recv_full (s := { s with schedule := later }) hr hrun hpeer hp hf hw
    split
    · exact hstep.trans (hrecv.trans (if_pos ‹_›))
    · exact hstep.trans (hrecv.trans (if_neg ‹_›))

/-- The next step is the launch exactly after the sixth word (R173). -/
theorem next_step_launch_iff (k : BitVec 3) : k + 1#3 = 6#3 ↔ k = 5#3 := by
  revert k
  decide

/-- Settles O42: the acknowledgement and the wake after it, each a step of its own. -/
theorem responderAcknowledges : Obligations.ResponderAcknowledges := by
  intro s later hwf hsched hr hrun hpeer
  have hstep := step_event (Config.configProblem_none hwf) hsched
  refine ⟨fun hp hf => ?_, fun hp hf => ?_, fun hp => ?_⟩
  · exact hstep.trans (pblStep_ack_full (s := { s with schedule := later }) hr hrun hpeer hp hf)
  · exact hstep.trans (pblStep_ack_empty (s := { s with schedule := later }) hr hrun hpeer hp hf)
  · rw [hstep, ← wokenLatches_eq]
    simp only [← next_step_launch_iff]
    exact pblStep_ackWake (s := { s with schedule := later }) hr hrun hpeer hp

/-- Settles O43: the three captured words are written, so the table word alone decides. -/
theorem launchStartsCoreOne : Obligations.LaunchStartsCoreOne := by
  intro s later vt sp entry hwf hsched hr hrun hpeer hp hvt hsp hpc
  have hstep := step_event (Config.configProblem_none hwf) hsched
  have hlaunch := pblStep_launch (s := { s with schedule := later }) hr hrun hpeer hp (congrArg Reg.written hvt)
    (congrArg Reg.written hsp) (congrArg Reg.written hpc)
  rw [hvt, hsp, hpc] at hlaunch
  exact hstep.trans hlaunch

/-! ### The simulated peer (R177) -/

/-- Settles O46: the two conditions of the peer's step are those of the rule. -/
theorem simulatedPeerOnPortOne : Obligations.SimulatedPeerOnPortOne := by
  intro s later op hwf hsched
  rw [step_event (Config.configProblem_none hwf) hsched]
  simp only [runEvent, envStep, Bool.and_eq_true, Bool.not_eq_true', beq_iff_eq]
  rfl

end Sys2Proof.Machine
end

section
/-! SUPPORT. What the family 41_boot_sequencer.md needs, third part: the transactions of the sequencer's registers and of
core 1's, each as its own rule once the common checks have passed (R141 to R149, R160 to R164). -/

namespace Sys2Proof.Machine

variable {i : Instr} {s : State} {r : RegName} {d v : Word} {own : Result}

/-! ### The lockout of port 0 (R120 step 4, R160) -/

/-- The lockout's fault comes from a listed transaction on port 0 beside a busy sequencer. -/
theorem of_admissionProblem_lockout {T : TWord} (h : admissionProblem s i = some (.seqBusyLockout T)) :
    s.port = .p0 ∧ s.bsq.state.busy = true ∧ lockoutListed i = true := by
  unfold admissionProblem at h
  split at h
  · cases h
  · split at h
    · rename_i hlock
      simp only [Bool.and_eq_true, beq_iff_eq] at hlock
      obtain ⟨⟨hp, hi⟩, hb⟩ := hlock
      exact ⟨hp, hb, hi⟩
    · cases h

theorem lockoutListed_cases (h : lockoutListed i = true) :
    i = .rdRx ∨ ∃ d, i = .wrTx d ∨ i = .wrWake d ∨ i = .wrWait d := by
  cases i with
  | rdRx => exact .inl rfl
  | wrTx d => exact .inr ⟨d, .inl rfl⟩
  | wrWake d => exact .inr ⟨d, .inr (.inl rfl)⟩
  | wrWait d => exact .inr ⟨d, .inr (.inr rfl)⟩
  | _ => cases h

/-- A listed transaction on port 0 of a ready block faults while the sequencer is busy. -/
theorem exec_locked (hr : s.ready = true) (hp : s.port = .p0) (hb : s.bsq.state.busy = true)
    (hi : lockoutListed i = true) : exec i s = .fault (.seqBusyLockout (encode i)) := by
  have hrights : rightsProblem s.cfg s.port i = none := by
    refine rightsProblem_none (fun _ => hp) fun idx h => ?_
    rw [h] at hi
    cases hi
  have hlock : admissionProblem s i = some (.seqBusyLockout (encode i)) := by
    simp [admissionProblem, hr, hp, hi, hb]
  obtain ⟨own, ho⟩ := exec_checked i s
  simp only [ho, checked, hrights, hlock]

/-- The outcome is the lockout's fault. -/
def LocksOut (r : Result) : Prop := ∃ T, r = .fault (.seqBusyLockout T)

theorem not_locksOut_answer : ¬ LocksOut (answer v s) := by
  rintro ⟨T, h⟩
  cases h

theorem not_locksOut_finish : ¬ LocksOut (finish s) := by
  rintro ⟨T, h⟩
  cases h

theorem not_locksOut_fault {f : Fault} (hf : ∀ T, f ≠ .seqBusyLockout T) : ¬ LocksOut (.fault f) := by
  rintro ⟨T, h⟩
  cases h
  exact hf T rfl

theorem not_locksOut_ite {c : Prop} [Decidable c] {a b : Result} (ha : ¬ LocksOut a) (hb : ¬ LocksOut b) :
    ¬ LocksOut (if c then a else b) := by
  split
  · exact ha
  · exact hb

theorem not_locksOut_readReg {k : Word → Result} (hk : ∀ v, ¬ LocksOut (k v)) : ¬ LocksOut (s.readReg r k) :=
  not_locksOut_ite (hk _) (not_locksOut_fault nofun)

/-- No transaction's own rule raises the lockout's fault: only the common checks do. -/
theorem exec_own_not_locksOut (i : Instr) (s : State) : ∃ own, exec i s = checked i s own ∧ ¬ LocksOut own := by
  cases i with
  | wrTx d => exact ⟨_, rfl, not_locksOut_ite (not_locksOut_fault nofun) not_locksOut_finish⟩
  | rdRx =>
    exact ⟨_, rfl, not_locksOut_ite (not_locksOut_readReg fun _ => not_locksOut_answer) (not_locksOut_fault nofun)⟩
  | wrWait d =>
    exact ⟨_, rfl, not_locksOut_ite (not_locksOut_fault nofun)
      (not_locksOut_ite not_locksOut_finish not_locksOut_finish)⟩
  | rdBsqVtor | rdBsqSp | rdBsqEntry => exact ⟨_, rfl, not_locksOut_readReg fun _ => not_locksOut_answer⟩
  | wrBsqVtor d | wrBsqSp d | wrBsqEntry d =>
    exact ⟨_, rfl, not_locksOut_ite (not_locksOut_fault nofun) not_locksOut_finish⟩
  | wrBsqCtrl go =>
    refine ⟨_, rfl, not_locksOut_ite not_locksOut_finish (not_locksOut_ite (not_locksOut_fault nofun) ?_)⟩
    exact not_locksOut_readReg fun vt => not_locksOut_readReg fun _ => not_locksOut_readReg fun _ =>
      not_locksOut_ite (not_locksOut_fault nofun) not_locksOut_finish
  | rdC1Vtor | rdC1Sp | rdC1Pc =>
    exact ⟨_, rfl, not_locksOut_ite (not_locksOut_readReg fun _ => not_locksOut_answer) (not_locksOut_fault nofun)⟩
  | rdCpuid | rdSt | rdBsqSt | rdBsqResends | rdIrqEn | rdIrqSt | rdC1St | rdVdt idx =>
    exact ⟨_, rfl, not_locksOut_answer⟩
  | wrWake d | wrIrqEn d | wrIrqEnSet d | wrIrqEnClr d | wrIrqEnXor d | wrIrqSt d =>
    exact ⟨_, rfl, not_locksOut_finish⟩

/-- Settles O23: the fault is raised by the fourth of the common checks and nowhere else. -/
theorem sequencerLockout : Obligations.SequencerLockout := by
  refine ⟨fun d s hr hp hb i hi => exec_locked hr hp hb ?_, fun i s T h => ?_⟩
  · simp only [List.mem_cons, List.not_mem_nil, or_false] at hi
    obtain rfl | rfl | rfl | rfl := hi
    all_goals rfl
  · obtain ⟨own, ho, hown⟩ := exec_own_not_locksOut i s
    obtain ha | ⟨-, -, hfault⟩ := checked_fault (ho ▸ h)
    · obtain ⟨hp, hb, hi⟩ := of_admissionProblem_lockout ha
      exact ⟨hp, hb, lockoutListed_cases hi⟩
    · exact absurd ⟨T, hfault⟩ hown

/-! ### The sequencer's registers on port 0 (R141 to R149) -/

/-- A transaction that the lockout does not list and that has no index passes the checks on port 0 of a ready block. -/
theorem checked_port0 (hl : lockoutListed i = false) (hv : ∀ idx, i ≠ .rdVdt idx) (hr : s.ready = true)
    (hp : s.port = .p0) : checked i s own = own :=
  checked_pass (rightsProblem_none (fun _ => hp) fun idx h => absurd h (hv idx))
    (admissionProblem_none hr fun _ h => by cases hl.symm.trans h)

/-- A read of a written register answers its word. -/
theorem readReg_answer (h : s.x.get r = ⟨v, true⟩) :
    (s.readReg r fun w => answer w s) = .next { s with rdata := some v } := by
  rw [readReg_written (by rw [h]), h, answer]

/-- A read of a register as a test of its written mark (R8, R22). -/
theorem readReg_eq_ite {k : Word → Result} : s.readReg r k =
    if (s.x.get r).written = false then .fault (.unwrittenRegister r) else k (s.x.get r).val := by
  cases h : (s.x.get r).written with
  | false => exact readReg_unwritten h
  | true => exact readReg_written h

section
variable (hr : s.ready = true) (hp : s.port = .p0)
include hr hp

theorem exec_rdBsqVtor : exec .rdBsqVtor s = s.readReg .bsqVtor fun w => answer w s :=
  checked_port0 (i := .rdBsqVtor) rfl nofun hr hp

theorem exec_rdBsqSp : exec .rdBsqSp s = s.readReg .bsqSp fun w => answer w s :=
  checked_port0 (i := .rdBsqSp) rfl nofun hr hp

theorem exec_rdBsqEntry : exec .rdBsqEntry s = s.readReg .bsqEntry fun w => answer w s :=
  checked_port0 (i := .rdBsqEntry) rfl nofun hr hp

theorem exec_wrBsqVtor : exec (.wrBsqVtor d) s =
    if s.bsq.state ≠ .idle then .fault (.seqRegLocked .bsqVtor) else finish (s.writeReg .bsqVtor d) :=
  checked_port0 (i := .wrBsqVtor d) rfl nofun hr hp

theorem exec_wrBsqSp : exec (.wrBsqSp d) s =
    if s.bsq.state ≠ .idle then .fault (.seqRegLocked .bsqSp) else finish (s.writeReg .bsqSp d) :=
  checked_port0 (i := .wrBsqSp d) rfl nofun hr hp

theorem exec_wrBsqEntry : exec (.wrBsqEntry d) s =
    if s.bsq.state ≠ .idle then .fault (.seqRegLocked .bsqEntry) else finish (s.writeReg .bsqEntry d) :=
  checked_port0 (i := .wrBsqEntry d) rfl nofun hr hp

theorem exec_wrBsqCtrl_noGo : exec (.wrBsqCtrl false) s = finish s :=
  checked_port0 (i := .wrBsqCtrl false) rfl nofun hr hp

theorem exec_wrBsqCtrl_go : exec (.wrBsqCtrl true) s =
    if s.bsq.state ≠ .idle then .fault (.seqReinvoke s.bsq.state)
    else s.readReg .bsqVtor fun vt => s.readReg .bsqSp fun _ => s.readReg .bsqEntry fun _ =>
      if vt ≠ s.cfg.vtBase then .fault (.vtorMismatch vt)
      else finish { s with bsq := startedSequencer s.bsq } :=
  checked_port0 (i := .wrBsqCtrl true) rfl nofun hr hp

theorem exec_rdBsqSt : exec .rdBsqSt s = answer (bsqStatusWord s.bsq) s :=
  checked_port0 (i := .rdBsqSt) rfl nofun hr hp

theorem exec_rdBsqResends : exec .rdBsqResends s = answer s.bsq.resends s :=
  checked_port0 (i := .rdBsqResends) rfl nofun hr hp

end

/-- Settles O11: each read's own rule is a read of its register. -/
theorem sequencerRegisterReads : Obligations.SequencerRegisterReads := by
  intro v s hr hp
  exact ⟨fun h => (exec_rdBsqVtor hr hp).trans (readReg_answer h),
    fun h => (exec_rdBsqSp hr hp).trans (readReg_answer h),
    fun h => (exec_rdBsqEntry hr hp).trans (readReg_answer h)⟩

/-- Settles O12: the lock of each write is open while the sequencer is idle. -/
theorem sequencerRegisterWrites : Obligations.SequencerRegisterWrites := by
  intro d s hr hp hi
  have hopen : ¬ s.bsq.state ≠ .idle := not_not.mpr hi
  exact ⟨(exec_wrBsqVtor hr hp).trans (if_neg hopen), (exec_wrBsqSp hr hp).trans (if_neg hopen),
    (exec_wrBsqEntry hr hp).trans (if_neg hopen)⟩

/-- Settles O26: the reads of the three registers are the tests of their written marks, in the rule's order. -/
theorem goFaults : Obligations.GoFaults := by
  intro s hr hp
  rw [exec_wrBsqCtrl_go hr hp]
  simp only [readReg_eq_ite]
  rfl

/-- Settles O13: with `GO`, none of the tests of `goFaults` applies. -/
theorem goStartsSequencer : Obligations.GoStartsSequencer := by
  intro s hr hp
  refine ⟨exec_wrBsqCtrl_noGo hr hp, fun hi hvt hsp hentry => ?_⟩
  rw [goFaults s hr hp]
  simp [hi, hvt, hsp, hentry, startedSequencer]

/-! ### The status words of sequencer and core 1 (R39, R43) -/

/-- A field of one bit is a bit. -/
theorem getLsbD_of_field {n : Nat} {b : Bool} (h : v.extractLsb' n 1 = BitVec.ofBool b) : v.getLsbD n = b := by
  simpa using congrArg (BitVec.getLsbD · 0) h

/-- `BUSY` in terms of the states of R39. -/
theorem BsqState.busy_iff (st : BsqState) : st.busy = true ↔ st ≠ .idle ∧ st ≠ .peerRunning := by
  cases st
  all_goals decide

/-- A field of the high part of a word is found above the low part. -/
theorem extractLsb'_above {m n start len : Nat} {hi : BitVec m} {lo : BitVec n} {field : BitVec len} (h : n ≤ start)
    (hf : hi.extractLsb' (start - n) len = field) : (hi ++ lo).extractLsb' start len = field :=
  (BitVec.extractLsb'_append_eq_of_le h).trans hf

/-- The fields of `BSQ_ST` from bit 0 up, each above those before it (R39, R148). -/
theorem bsqStatusWord_fields (b : Bsq) :
    (bsqStatusWord b).extractLsb' 0 3 = b.state.code ∧
    (bsqStatusWord b).extractLsb' 3 1 = BitVec.ofBool b.state.busy ∧
    (bsqStatusWord b).extractLsb' 4 1 = BitVec.ofBool b.desync ∧
    (bsqStatusWord b).extractLsb' 5 3 = 0#3 ∧
    (bsqStatusWord b).extractLsb' 8 3 = b.k ∧
    (bsqStatusWord b).extractLsb' 11 1 = BitVec.ofBool false ∧
    (bsqStatusWord b).extractLsb' 12 3 = b.phase.code ∧
    (bsqStatusWord b).extractLsb' 15 17 = 0#17 := by
  refine ⟨BitVec.extractLsb'_append_eq_right,
    extractLsb'_above (by decide) BitVec.extractLsb'_append_eq_right, ?_, ?_, ?_, ?_, ?_, ?_⟩
  · iterate 2 refine extractLsb'_above (by decide) ?_
    exact BitVec.extractLsb'_append_eq_right
  · iterate 3 refine extractLsb'_above (by decide) ?_
    exact BitVec.extractLsb'_append_eq_right
  · iterate 4 refine extractLsb'_above (by decide) ?_
    exact BitVec.extractLsb'_append_eq_right
  · iterate 5 refine extractLsb'_above (by decide) ?_
    exact BitVec.extractLsb'_append_eq_right
  · iterate 6 refine extractLsb'_above (by decide) ?_
    exact BitVec.extractLsb'_append_eq_right
  · iterate 6 refine extractLsb'_above (by decide) ?_
    exact BitVec.extractLsb'_append_eq_left

/-- The fields of `C1_ST` from bit 0 up (R43, R161). -/
theorem c1StatusWord_fields (s : State) :
    (c1StatusWord s).extractLsb' 0 1 = BitVec.ofBool s.c1Running ∧
    (c1StatusWord s).extractLsb' 1 7 = 0#7 ∧
    (c1StatusWord s).extractLsb' 8 3 = s.pbl.k ∧
    (c1StatusWord s).extractLsb' 11 1 = BitVec.ofBool false ∧
    (c1StatusWord s).extractLsb' 12 2 = s.pbl.phase.code ∧
    (c1StatusWord s).extractLsb' 14 18 = 0#18 := by
  refine ⟨BitVec.extractLsb'_append_eq_right,
    extractLsb'_above (by decide) BitVec.extractLsb'_append_eq_right, ?_, ?_, ?_, ?_⟩
  · iterate 2 refine extractLsb'_above (by decide) ?_
    exact BitVec.extractLsb'_append_eq_right
  · iterate 3 refine extractLsb'_above (by decide) ?_
    exact BitVec.extractLsb'_append_eq_right
  · iterate 4 refine extractLsb'_above (by decide) ?_
    exact BitVec.extractLsb'_append_eq_right
  · iterate 4 refine extractLsb'_above (by decide) ?_
    exact BitVec.extractLsb'_append_eq_left

/-- Settles O14: the word is `bsqStatusWord`, and the codes of its fields are those of R39. -/
theorem sequencerStatusReads : Obligations.SequencerStatusReads := by
  intro s hr hp
  obtain ⟨hstate, hbusy, hdesync, hgap, hk, hgap', hphase, htop⟩ := bsqStatusWord_fields s.bsq
  refine ⟨exec_rdBsqResends hr hp, bsqStatusWord s.bsq, exec_rdBsqSt hr hp, hstate.trans ?_, ?_,
    getLsbD_of_field hdesync, hgap, hk, getLsbD_of_field hgap', hphase.trans ?_, htop⟩
  · cases s.bsq.state
    all_goals rfl
  · rw [getLsbD_of_field hbusy, BsqState.busy_iff]
  · cases s.bsq.phase
    all_goals rfl

/-! ### The registers of core 1, on either port (R161 to R164) -/

section
variable (hr : s.ready = true)
include hr

theorem exec_rdC1St : exec .rdC1St s = answer (c1StatusWord s) s :=
  checked_admitted (i := .rdC1St) rfl nofun hr nofun

theorem exec_rdC1Vtor : exec .rdC1Vtor s =
    if s.c1Running then s.readReg .c1Vtor fun w => answer w s else .fault (.unwrittenRegister .c1Vtor) :=
  checked_admitted (i := .rdC1Vtor) rfl nofun hr nofun

theorem exec_rdC1Sp : exec .rdC1Sp s =
    if s.c1Running then s.readReg .c1Sp fun w => answer w s else .fault (.unwrittenRegister .c1Sp) :=
  checked_admitted (i := .rdC1Sp) rfl nofun hr nofun

theorem exec_rdC1Pc : exec .rdC1Pc s =
    if s.c1Running then s.readReg .c1Pc fun w => answer w s else .fault (.unwrittenRegister .c1Pc) :=
  checked_admitted (i := .rdC1Pc) rfl nofun hr nofun

end

/-- Settles O15: the word is `c1StatusWord`, and the codes of its phase field are those of R43. -/
theorem coreOneStatusRead : Obligations.CoreOneStatusRead := by
  intro s hr
  obtain ⟨hrun, hgap, hk, hgap', hphase, htop⟩ := c1StatusWord_fields s
  refine ⟨c1StatusWord s, exec_rdC1St hr, getLsbD_of_field hrun, hgap, hk, getLsbD_of_field hgap',
    hphase.trans ?_, htop⟩
  cases s.pbl.phase
  all_goals rfl

/-- Settles O16: once core 1 runs, each read's own rule is a read of its register. -/
theorem launchRegisterReads : Obligations.LaunchRegisterReads := by
  intro v s hr hrun
  exact ⟨fun h => (exec_rdC1Vtor hr).trans ((if_pos hrun).trans (readReg_answer h)),
    fun h => (exec_rdC1Sp hr).trans ((if_pos hrun).trans (readReg_answer h)),
    fun h => (exec_rdC1Pc hr).trans ((if_pos hrun).trans (readReg_answer h))⟩

/-- Settles O25: each fault is an arm of the access's own rule. -/
theorem registerAccessFaults : Obligations.RegisterAccessFaults := by
  intro d s hr
  refine ⟨fun hrun => ?_, fun hp => ⟨fun h => ?_, fun h => ?_, fun h => ?_, fun hbusy => ?_⟩⟩
  · have hhalted : ¬ s.c1Running = true := by simp [hrun]
    exact ⟨(exec_rdC1Vtor hr).trans (if_neg hhalted), (exec_rdC1Sp hr).trans (if_neg hhalted),
      (exec_rdC1Pc hr).trans (if_neg hhalted)⟩
  · exact (exec_rdBsqVtor hr hp).trans (readReg_unwritten h)
  · exact (exec_rdBsqSp hr hp).trans (readReg_unwritten h)
  · exact (exec_rdBsqEntry hr hp).trans (readReg_unwritten h)
  · exact ⟨(exec_wrBsqVtor hr hp).trans (if_pos hbusy), (exec_wrBsqSp hr hp).trans (if_pos hbusy),
      (exec_wrBsqEntry hr hp).trans (if_pos hbusy)⟩

end Sys2Proof.Machine
end

section
/-! SUPPORT. What the family 41_boot_sequencer.md needs, fourth part: how the handshake of R178 starts, that it goes on,
and what it has delivered at its end. -/

namespace Sys2Proof.Machine

variable {s t : State}

/-! ### The start (R147) -/

/-- A responder at its start has received nothing. -/
theorem not_hasReceived_start {n : BitVec 3} (hk : s.pbl.k = 0#3) (hp : s.pbl.phase = .recv) :
    ¬ hasReceived s.pbl n := by
  rintro (h | ⟨-, h⟩)
  · rw [hk] at h
    exact absurd h (BitVec.not_lt_zero)
  · simp [hp] at h

/-- Settles O51: `GO` is an effect that keeps the invariants, and leaves both agents before the word of step 0. -/
theorem goStartsHandshakeInStep : Obligations.GoStartsHandshakeInStep := by
  intro s hs hr hp hpeer hempty hidle hhalted hvt hsp hentry
  obtain ⟨-, hk, hphase⟩ := hhalted
  have hst : s.bsq.state = .idle := by rw [hidle]
  refine ⟨_, (goStartsSequencer s hr hp).2 hst hvt hsp hentry, ?_⟩
  have hinv : Inv { s with bsq := startedSequencer s.bsq } :=
    (StepEffect.go (o := none) hst hvt hsp hentry).inv nofun hs
  have hcap : CapturedAgree s := ⟨fun h => absurd h (not_hasReceived_start hk hphase),
    fun h => absurd h (not_hasReceived_start hk hphase), fun h => absurd h (not_hasReceived_start hk hphase)⟩
  refine ⟨hinv, hpeer, nofun, ?_, ?_, hcap, fun _ => ?_, nofun⟩
  · rw [hidle]
  · rw [hidle]
  · exact .of_unsent (by simp) hempty (.inl ⟨hphase, hk⟩)

/-! ### Progress (R178, R254) -/

/-- From the invariants the sequencer's step answers a next state: the words it needs are written. -/
theorem bsqStep_answers (hs : Inv s) : ∃ t, bsqStep s = .next t := by
  obtain ⟨-, hseq, hboot, -, -, -, -, hslots⟩ := hs
  by_cases hon : s.ready = true ∧ s.bsq.state.busy = true
  swap
  · exact ⟨s, if_neg (by simpa using hon)⟩
  obtain ⟨hr, hb⟩ := hon
  cases hp : s.bsq.phase with
  | drain =>
    cases hf : s.full.c1 with
    | false => exact ⟨_, bsqStep_drain_empty hr hb hp hf⟩
    | true => exact ⟨_, bsqStep_drain_full hr hb hp hf (hslots .p1 hf)⟩
  | wake => exact ⟨_, bsqStep_wake hr hb hp⟩
  | send =>
    cases hf : s.full.c0 with
    | false => exact ⟨_, bsqStep_send_empty hr hb hseq hboot hp hf⟩
    | true => exact ⟨_, bsqStep_send_full hr hb hp hf⟩
  | sendWake => exact ⟨_, bsqStep_sendWake hr hb hp⟩
  | recv =>
    cases hf : s.full.c1 with
    | false => exact ⟨_, bsqStep_recv_empty hr hb hp hf⟩
    | true =>
      rw [bsqStep_recv_full hr hb hseq hboot hp hf (hslots .p1 hf)]
      split
      · exact ⟨_, rfl⟩
      · exact ⟨_, rfl⟩

/-- The command words are those the responder takes (R150, R170). -/
theorem commandWord_accepted (s : State) (k : BitVec 3) :
    ¬ ((k ≤ 1#3 ∧ commandWord s k ≠ 0#32) ∨ (k = 2#3 ∧ commandWord s k ≠ 1#32)) := by
  rintro (⟨hk, h⟩ | ⟨rfl, h⟩)
  · have h01 : ∀ k : BitVec 3, k ≤ 1#3 → k = 0#3 ∨ k = 1#3 := by decide
    obtain rfl | rfl := h01 k hk
    · exact h rfl
    · exact h rfl
  · exact h rfl

/-- In step, a responder whose slot is full takes the word in it. -/
theorem pblStep_receives (hs : HandshakeInStep s) (hr : s.ready = true) (hrun : s.c1Running = false)
    (hp : s.pbl.phase = .recv) (hf : s.full.c0 = true) : ∃ t, pblStep s = .next t ∧ t.pbl.phase = .ack := by
  have hb := hs.busy_of_receiving hrun hp
  obtain ⟨-, hpeer, -, -, -, -, hpos, -⟩ := hs
  obtain ⟨-, -, hslot, haw⟩ := (hpos hb).of_full0 hf
  have hk : s.pbl.k = s.bsq.k := by simpa [responderAwaits, hp] using haw
  rw [← hk] at hslot
  exact ⟨_, (pblStep_recv_full hr hrun hpeer hp hf hslot).trans (if_neg (commandWord_accepted s _)), rfl⟩

/-- Past step 5 the responder has captured the three words that core 0 wrote. -/
theorem HandshakeInStep.delivered (hs : HandshakeInStep s) (hk : s.pbl.k = 6#3) :
    s.x.c1Vtor = s.x.bsqVtor ∧ s.x.c1Sp = s.x.bsqSp ∧ s.x.c1Pc = s.x.bsqEntry := by
  obtain ⟨-, -, -, -, -, ⟨hvt, hsp, hpc⟩, -⟩ := hs
  have hrecv {n : BitVec 3} (hn : n < 6#3) : hasReceived s.pbl n := .inl (hk ▸ hn)
  exact ⟨hvt (hrecv (by decide)), hsp (hrecv (by decide)), hpc (hrecv (by decide))⟩

/-- In step, a responder in its launch phase has the three words, and launches. -/
theorem pblStep_launches (hs : HandshakeInStep s) (hr : s.ready = true) (hrun : s.c1Running = false)
    (hp : s.pbl.phase = .launch) : ∃ t, pblStep s = .next t ∧ t.c1Running = true := by
  have hin := hs
  obtain ⟨⟨-, -, hboot, hresp, -⟩, hpeer, hi, -⟩ := hin
  obtain ⟨hvt, hsp, hpc⟩ := hs.delivered (responder_launch_step hresp hp)
  obtain ⟨hbvt, hbsp, hbentry⟩ := hboot hi
  rw [← hvt] at hbvt
  rw [← hsp] at hbsp
  rw [← hpc] at hbentry
  refine ⟨_, (pblStep_launch hr hrun hpeer hp (congrArg Reg.written hbvt) hbsp hbentry).trans (if_neg ?_), rfl⟩
  exact not_not.mpr (congrArg Reg.val hbvt)

/-- In step the responder's step answers a next state. -/
theorem pblStep_answers (hs : HandshakeInStep s) (hr : s.ready = true) : ∃ t, pblStep s = .next t := by
  have hpeer : s.cfg.peer = .pbl := hs.2.1
  cases hrun : s.c1Running with
  | true => exact ⟨s, if_neg (by simp [hrun])⟩
  | false =>
    cases hp : s.pbl.phase with
    | recv =>
      cases hf : s.full.c0 with
      | false => exact ⟨_, pblStep_recv_empty hr hrun hpeer hp hf⟩
      | true => exact (pblStep_receives hs hr hrun hp hf).imp fun _ h => h.1
    | ack =>
      cases hf : s.full.c1 with
      | false => exact ⟨_, pblStep_ack_empty hr hrun hpeer hp hf⟩
      | true => exact ⟨_, pblStep_ack_full hr hrun hpeer hp hf⟩
    | ackWake => exact ⟨_, pblStep_ackWake hr hrun hpeer hp⟩
    | launch => exact (pblStep_launches hs hr hrun hp).imp fun _ h => h.1

/-- A step that changes something read off the state is no hold. -/
theorem ne_hold_of_changed {α : Type} (f : State → α) {r : Result} (h : r = .next t) (hf : f t ≠ f s) :
    r ≠ .next s := by
  rintro hs
  cases h.symm.trans hs
  exact hf rfl

/-- Before its receive phase the sequencer is not held. -/
theorem bsqStep_moves (hs : HandshakeInStep s) (hr : s.ready = true) (hb : s.bsq.state.busy = true)
    (hp : s.bsq.phase ≠ .recv) : bsqStep s ≠ .next s := by
  obtain ⟨⟨-, hseq, hboot, -⟩, -, -, -, -, -, hpos, -⟩ := hs
  cases hph : s.bsq.phase with
  | drain =>
    obtain ⟨hfull, -⟩ := (hpos hb).2 (by simp [hph])
    exact ne_hold_of_changed (·.bsq.phase) (bsqStep_drain_empty hr hb hph (by rw [hfull])) (by simp [hph])
  | wake => exact ne_hold_of_changed (·.bsq.phase) (bsqStep_wake hr hb hph) (by simp [hph])
  | send =>
    obtain ⟨hfull, -⟩ := (hpos hb).2 (by simp [hph])
    exact ne_hold_of_changed (·.bsq.phase) (bsqStep_send_empty hr hb hseq hboot hph (by rw [hfull])) (by simp [hph])
  | sendWake => exact ne_hold_of_changed (·.bsq.phase) (bsqStep_sendWake hr hb hph) (by simp [hph])
  | recv => exact absurd hph hp

/-- A halted responder at its last wake of a step is not held. -/
theorem pblStep_ackWake_moves (hr : s.ready = true) (hrun : s.c1Running = false) (hpeer : s.cfg.peer = .pbl)
    (hp : s.pbl.phase = .ackWake) : pblStep s ≠ .next s :=
  ne_hold_of_changed (·.pbl.k) (pblStep_ackWake hr hrun hpeer hp) (by simp)

/-- In its receive phase the sequencer pops an acknowledgement, or the responder is not held. -/
theorem handshake_moves_recv (hs : HandshakeInStep s) (hr : s.ready = true) (hb : s.bsq.state.busy = true)
    (hp : s.bsq.phase = .recv) : bsqStep s ≠ .next s ∨ pblStep s ≠ .next s := by
  have hin := hs
  obtain ⟨⟨-, hseq, hboot, -, -, -, -, hslots⟩, hpeer, -, -, -, -, hpos, -⟩ := hin
  cases hf : s.full.c1 with
  | true =>
    left
    rw [bsqStep_recv_full hr hb hseq hboot hp hf (hslots .p1 hf)]
    split
    · exact ne_hold_of_changed (·.full.c1) rfl (by simp [hf])
    · exact ne_hold_of_changed (·.full.c1) rfl (by simp [hf])
  | false =>
    right
    have hrun : s.c1Running = false := Bool.eq_false_iff.mpr fun hrun => by simp [hs.full_of_running hb hrun] at hf
    obtain ⟨hfull, -, ⟨hpp, -⟩ | ⟨hpp, -⟩⟩ | ⟨-, hpp, -⟩ | ⟨hfull, -⟩ := (hpos hb).1 (.inr hp)
    · obtain ⟨t, ht, hack⟩ := pblStep_receives hs hr hrun hpp (by rw [hfull])
      exact ne_hold_of_changed (·.pbl.phase) ht (by simp [hack, hpp])
    · exact pblStep_ackWake_moves hr hrun hpeer hpp
    · exact ne_hold_of_changed (·.pbl.phase) (pblStep_ack_empty hr hrun hpeer hpp hf) (by simp [hpp])
    · simp [hfull] at hf

/-- Once the sequencer has finished, the responder goes on until core 1 runs. -/
theorem pblStep_moves_finished (hs : HandshakeInStep s) (hr : s.ready = true) (hst : s.bsq.state = .peerRunning)
    (hrun : s.c1Running = false) : pblStep s ≠ .next s := by
  obtain ⟨hp, -⟩ | ⟨hp, -⟩ := hs.answered_of_halted hst hrun
  · exact pblStep_ackWake_moves hr hrun hs.2.1 hp
  · obtain ⟨t, ht, hlaunched⟩ := pblStep_launches hs hr hrun hp
    exact ne_hold_of_changed (·.c1Running) ht (by simp [hlaunched, hrun])

/-- Settles O52: a busy sequencer moves unless it waits for the responder, which then moves; and after the sequencer has
finished the responder moves on to the launch. -/
theorem handshakeProgresses : Obligations.HandshakeProgresses := by
  intro s hs hr
  refine ⟨bsqStep_answers hs.1, pblStep_answers hs hr, fun hgoing => ?_⟩
  have hin := hs
  obtain ⟨-, -, hi, -⟩ := hin
  by_cases hb : s.bsq.state.busy = true
  · by_cases hp : s.bsq.phase = .recv
    · exact handshake_moves_recv hs hr hb hp
    · exact .inl (bsqStep_moves hs hr hb hp)
  · have hst : s.bsq.state = .peerRunning := by simpa [BsqState.busy_iff, hi] using hb
    have hrun : s.c1Running = false := Bool.eq_false_iff.mpr fun hrun => hgoing ⟨hst, hrun⟩
    exact .inr (pblStep_moves_finished hs hr hst hrun)

/-- A finished sequencer stands at step 6 with the phase field of the drain (R151, R152). -/
theorem sequencerConsistent_peerRunning {b : Bsq} (hst : b.state = .peerRunning) (h : SequencerConsistent b) :
    b.k = 6#3 ∧ b.phase = .drain := by
  simpa only [SequencerConsistent, hst] using h

/-- Settles O53: the invariants fix the registers of a finished sequencer and of a running core 1. -/
theorem handshakeDeliversWords : Obligations.HandshakeDeliversWords := by
  intro s hs hst hrun
  have hin := hs
  obtain ⟨⟨-, hseq, hboot, hresp, -⟩, -, hi, hd, -⟩ := hin
  obtain ⟨hpk, hpp, -⟩ := hresp.1 hrun
  obtain ⟨hvt, hsp, hpc⟩ := hs.delivered hpk
  obtain ⟨hbvt, -⟩ := hboot hi
  obtain ⟨hk, hp⟩ := sequencerConsistent_peerRunning hst hseq
  refine ⟨hvt, hsp, hpc, hvt.trans hbvt, hk, ?_, ?_⟩
  · simp only [bsqStatusWord, hst, hk, hp, hd]
    rfl
  · simp only [c1StatusWord, hpk, hpp, hrun]
    rfl

end Sys2Proof.Machine
end

section
/-! SUPPORT. What the family 42_dispatch_table.md needs: the entries of the vector table (R191), the own rule of each
transaction of the table window and of the line registers once the common checks have passed (R190, R194 to R200), and
the refusals of a launch and of a word (R192, R97). -/

namespace Sys2Proof.Machine

variable {s : State} {d : Word}

/-! ### The entries of the vector table (R191) -/

theorem lookupKey_eq_none_iff {α β : Type} [DecidableEq α] {l : List (α × β)} {k : α} :
    lookupKey l k = none ↔ ∀ e ∈ l, e.1 ≠ k := by
  simp only [lookupKey, Option.map_eq_none_iff, List.find?_eq_none, decide_eq_true_eq, ne_eq]

theorem vdt_unconfigured {cfg : Config} {idx : Nat} (hi : idx ≠ 0) (h : ∀ e ∈ cfg.handlers, e.1 ≠ idx) :
    vdt cfg idx = cfg.defaultHandler := by
  rw [vdt, if_neg hi, lookupKey_eq_none_iff.mpr h, Option.getD_none]

theorem vdt_configured {cfg : Config} {idx : Nat} (hi : idx ≠ 0) (h : ∃ e ∈ cfg.handlers, e.1 = idx) :
    (idx, vdt cfg idx) ∈ cfg.handlers := by
  rw [vdt, if_neg hi]
  cases hl : lookupKey cfg.handlers idx with
  | none =>
    obtain ⟨e, he, hidx⟩ := h
    exact absurd hidx (lookupKey_eq_none_iff.mp hl e he)
  | some v => exact lookupKey_mem hl

/-! ### The table window and the line registers, on either port (R190, R194 to R200) -/

section
variable (hr : s.ready = true)
include hr

theorem exec_rdVdt {idx : Nat} (hidx : idx < s.cfg.nvec) : exec (.rdVdt idx) s = answer (vdt s.cfg idx) s :=
  checked_pass (rightsProblem_none nofun fun | _, rfl => hidx) (admissionProblem_none hr nofun)

theorem exec_rdIrqEn : exec .rdIrqEn s = answer (s.en.get s.port) s :=
  checked_admitted (i := .rdIrqEn) rfl nofun hr nofun

theorem exec_rdIrqSt : exec .rdIrqSt s = answer s.cond s :=
  checked_admitted (i := .rdIrqSt) rfl nofun hr nofun

theorem exec_wrIrqEn : exec (.wrIrqEn d) s = finish (s.writeEnable (d &&& maskIrq s.cfg)) :=
  checked_admitted (i := .wrIrqEn d) rfl nofun hr nofun

theorem exec_wrIrqEnSet :
    exec (.wrIrqEnSet d) s = finish (s.writeEnable ((s.en.get s.port ||| d) &&& maskIrq s.cfg)) :=
  checked_admitted (i := .wrIrqEnSet d) rfl nofun hr nofun

theorem exec_wrIrqEnClr : exec (.wrIrqEnClr d) s = finish (s.writeEnable (s.en.get s.port &&& ~~~d)) :=
  checked_admitted (i := .wrIrqEnClr d) rfl nofun hr nofun

theorem exec_wrIrqEnXor :
    exec (.wrIrqEnXor d) s = finish (s.writeEnable ((s.en.get s.port ^^^ d) &&& maskIrq s.cfg)) :=
  checked_admitted (i := .wrIrqEnXor d) rfl nofun hr nofun

theorem exec_wrIrqSt : exec (.wrIrqSt d) s = finish { s with cond := s.cond &&& ~~~d } :=
  checked_admitted (i := .wrIrqSt d) rfl nofun hr nofun

end

/-- Settles O17: the word read is the table's entry, and the entries are those of R191. -/
theorem tableReadReturnsHandler : Obligations.TableReadReturnsHandler := by
  intro idx s hr hidx
  exact ⟨vdt s.cfg idx, exec_rdVdt hr hidx, fun h0 => if_pos h0, vdt_unconfigured, vdt_configured⟩

/-- Settles O18: both reads answer, which changes the returned word only. -/
theorem lineRegisterReads : Obligations.LineRegisterReads := by
  intro s hr
  exact ⟨exec_rdIrqEn hr, exec_rdIrqSt hr⟩

/-- Settles O19: the four writes are writes of the port's enables. -/
theorem enableWrites : Obligations.EnableWrites := by
  intro d s hr
  exact ⟨exec_wrIrqEn hr, exec_wrIrqEnSet hr, exec_wrIrqEnClr hr, exec_wrIrqEnXor hr⟩

/-- Clearing the bits of a mask in a word, bit by bit. -/
theorem getLsbD_and_not {w : Nat} (a b : BitVec w) (n : Nat) :
    (a &&& ~~~b).getLsbD n = (a.getLsbD n && !b.getLsbD n) := by
  rw [BitVec.getLsbD_and, BitVec.getLsbD_not]
  by_cases hn : n < w
  · simp [hn]
  · simp [BitVec.getLsbD_of_ge a n (Nat.le_of_not_lt hn)]

/-- Settles O20: the conditions left are those outside the written mask. -/
theorem conditionWriteClears : Obligations.ConditionWriteClears := by
  intro d s hr
  exact ⟨s.cond &&& ~~~d, exec_wrIrqSt hr, getLsbD_and_not s.cond d⟩

/-! ### The refusals of a step (R192, R97) -/

theorem exists_configProblem {cfg : Config} (h : cfg.wf = false) : ∃ why, configProblem cfg = some why := by
  simpa only [Config.wf, Option.isNone_eq_false_iff, Option.isSome_iff_exists] using h

/-- A launch whose configuration breaks a condition runs no step (R192). -/
theorem step_badConfiguration {why : BadConfig} (h : configProblem s.cfg = some why) :
    step s = .refused (.badConfiguration why) := by
  simp only [step, h]

theorem issueWord_error {c : Port} {T : TWord} {why : Reserved} (h : decode T = .error why) :
    issueWord c T s = .refused (.reservedEncoding T) := by
  simp only [issueWord, h]

/-- Settles O28: the configuration is checked before the event, and the word is decoded before every other check. -/
theorem stepRefusals : Obligations.StepRefusals := by
  refine ⟨fun s hwf => (exists_configProblem hwf).imp fun _ => step_badConfiguration, ?_⟩
  intro s c later opcode data dst rest names v why hwf hsched hm hst hv hdec
  calc step s
      = coreStep c { s with schedule := later } := step_event (Config.configProblem_none hwf) hsched
    _ = afterTransaction c dst rest names (issueWord c (wordOf opcode v) { s with schedule := later }) :=
        coreStep_access hm hst hv
    _ = .refused (.reservedEncoding (wordOf opcode v)) := by
        rw [issueWord_error hdec]
        rfl

end Sys2Proof.Machine
end

section
/-! SUPPORT. What the family 43_protocol_pseudo_ops.md needs: a report line of a core's stream (R228, R101). -/

namespace Sys2Proof.Machine

/-- A report line whose operand has a value records it, and the stream goes on past the line (R228). -/
theorem lineStep_report {s : State} {c : Port} {d : Operand} {v : Word} (rest : Script)
    (hv : evalOperand (s.streams.get c).names d = some v) :
    lineStep c (.report d) rest s = .next ((s.report c v).advance c rest (s.streams.get c).names) := by
  simp only [lineStep, hv]

/-- A stream that may step and stands at a line runs that line (R13, R101). -/
theorem coreStep_line {s : State} {c : Port} {l : Line} {rest : Script} (hm : streamMayStep s c = true)
    (hl : (s.streams.get c).script = .line l rest) : coreStep c s = lineStep c l rest s := by
  simp only [coreStep, hm, if_true, hl]

/-- A stream that may step and stands at a report of an operand with a value records it and goes on. -/
theorem coreStep_report {s : State} {c : Port} {d : Operand} {v : Word} {rest : Script} {names : List (Name × Word)}
    (hm : streamMayStep s c = true) (hst : s.streams.get c = ⟨.line (.report d) rest, names⟩)
    (hv : evalOperand names d = some v) :
    coreStep c s = .next ((s.report c v).advance c rest names) := by
  have hscript : (s.streams.get c).script = .line (.report d) rest := congrArg Stream.script hst
  have hnames : (s.streams.get c).names = names := congrArg Stream.names hst
  rw [coreStep_line hm hscript, lineStep_report rest (by rw [hnames, hv]), hnames]

/-- Settles O45: the step is the event, the event is the report line, and taking the event off the interleaving changes
neither the stream nor whether it may step. -/
theorem reportOnlyRecords : Obligations.ReportOnlyRecords := by
  intro s c later d v rest names hwf hsched hm hst hv
  calc step s
      = coreStep c { s with schedule := later } := step_event (Config.configProblem_none hwf) hsched
    _ = .next ((State.report { s with schedule := later } c v).advance c rest names) := coreStep_report hm hst hv
    _ = _ := rfl

end Sys2Proof.Machine
end

section
/-! SUPPORT. What the family 60_exceptions.md needs: what holds a stream, a core exception and a dispatch (R254, R262,
R264, R266), what taking a handler and returning from it change (R262, R263, R266, R267), and that no agent but
`RESET` gets a core out of a trap loop (R269). -/

namespace Sys2Proof.Machine

variable {s t : State} {c q : Port} {e : Event} {i : Instr} {idx n : Nat} {rest : Script}

/-! ### Edges (R260) -/

/-- The word with bit `n` set, bit by bit. -/
theorem getLsbD_one_shiftLeft {m n : Nat} (hm : m < 32) : (1#32 <<< n).getLsbD m = decide (m = n) := by
  by_cases hmn : m = n
  · subst hmn
    simp [hm]
  · rw [decide_eq_false hmn]
    exact Bool.eq_false_iff.mpr fun hbit => hmn (eq_of_getLsbD_one_shiftLeft hbit)

theorem getLsbD_or_one_shiftLeft (v : Word) (n : Nat) {m : Nat} (hm : m < 32) :
    (v ||| 1#32 <<< n).getLsbD m = (v.getLsbD m || decide (m = n)) := by
  rw [BitVec.getLsbD_or, getLsbD_one_shiftLeft hm]

theorem edge_ready (hr : s.ready = true) (hn : n < nirq s.cfg) :
    edge n s = .next { s with cond := s.cond ||| (1#32 <<< n), hist := s.hist ++ [.edge n] } := by
  simp only [edge, hr, hn, decide_true, Bool.and_self, if_true]

theorem edge_notReady (hr : s.ready = false) : edge n s = .next s := by
  simp [edge, hr, hold]

/-- Settles O31: the edge sets the bit of its line in the conditions. -/
theorem edgeLatchesCondition : Obligations.EdgeLatchesCondition := by
  intro n s later hwf hsched hn
  rw [step_event (Config.configProblem_none hwf) hsched]
  exact ⟨fun hr => ⟨_, edge_ready (s := { s with schedule := later }) hr hn, fun m => getLsbD_or_one_shiftLeft _ n⟩,
    fun hr => edge_notReady (s := { s with schedule := later }) hr⟩

/-! ### Held steps (R254, R262, R264, R266) -/

/-- A background stream is held while its core is parked (R120) or pre-empted (R264). -/
theorem streamMayStep_background (ha : s.active.get c = none)
    (h : s.parked.get c = true ∨ dispatchEnabled s c = true) : streamMayStep s c = false := by
  obtain hp | hd := h
  · simp [streamMayStep, ha, hp]
  · simp [streamMayStep, ha, hd]

theorem coreStep_held (hm : streamMayStep s c = false) : coreStep c s = .next s := by
  simp [coreStep, hm, hold]

theorem dispatch_held (hd : dispatchEnabled s c = false) : dispatch c s = .next s := by
  simp [dispatch, hd, hold]

/-- A core runs unless it is core 1 before the launch (R29). -/
theorem coreRuns_eq_false_iff : coreRuns s c = false ↔ c = .p1 ∧ s.c1Running = false := by
  cases c
  · simp [coreRuns]
  · simp [coreRuns]

/-- What disables a dispatch: the block, the core, a handler, or no line (R262, R270). -/
theorem dispatchEnabled_eq_false_iff : dispatchEnabled s c = false ↔
    s.ready = false ∨ coreRuns s c = false ∨ s.active.get c ≠ none ∨ pendingLines s c = 0#32 := by
  simp only [dispatchEnabled, Bool.and_eq_false_iff, bne_eq_false_iff_eq, Option.isNone_eq_false_iff,
    Option.isSome_iff_ne_none, or_assoc]

/-- A stream that may step and stands at `EXC c e` takes the exception (R266). -/
theorem coreStep_exc {e : Nat} {names : List (Name × Word)} (hm : streamMayStep s c = true)
    (hst : s.streams.get c = ⟨.line (.exc e) rest, names⟩) : coreStep c s = exception c e rest s :=
  coreStep_line hm (congrArg Stream.script hst)

/-- A core exception of an existing index, before readiness (R254, R266). -/
theorem exception_notReady {e : Nat} (he1 : 1 ≤ e) (he2 : e < s.cfg.ncorex) (hr : s.ready = false) :
    exception c e rest s = .next s := by
  simp [exception, Nat.ne_of_gt he1, he2, hr, hold]

/-- Whether or not the stream may step, a core exception before readiness changes nothing. -/
theorem coreStep_exc_notReady {e : Nat} {names : List (Name × Word)}
    (hst : s.streams.get c = ⟨.line (.exc e) rest, names⟩) (he1 : 1 ≤ e) (he2 : e < s.cfg.ncorex)
    (hr : s.ready = false) : coreStep c s = .next s := by
  cases hm : streamMayStep s c with
  | false => exact coreStep_held hm
  | true => rw [coreStep_exc hm hst, exception_notReady he1 he2 hr]

/-- Settles O29: each clause names what holds the scheduled step, which taking the event off the interleaving leaves. -/
theorem heldStepsChangeNothing : Obligations.HeldStepsChangeNothing := by
  intro s c later hwf
  have hstep {e : Event} (hsched : s.schedule = e :: later) : step s = runEvent e { s with schedule := later } :=
    step_event (Config.configProblem_none hwf) hsched
  refine ⟨fun hsched h => ?_, fun e rest names hsched hr hst he1 he2 => ?_, fun hsched h => ?_⟩
  · rw [hstep hsched]
    obtain ⟨ha, h⟩ | h := h
    · exact coreStep_held (streamMayStep_background (s := { s with schedule := later }) ha h)
    · exact coreStep_halted (s := { s with schedule := later }) (coreRuns_eq_false_iff.mpr h)
  · rw [hstep hsched]
    exact coreStep_exc_notReady (s := { s with schedule := later }) hst he1 he2 hr
  · rw [← coreRuns_eq_false_iff] at h
    rw [hstep hsched]
    exact dispatch_held (s := { s with schedule := later }) (dispatchEnabled_eq_false_iff.mpr h)

/-! ### Taking a handler (R262, R263, R266) -/

/-- In a well-formed launch every index of a handler has its reference in the table and a kind, so the entry completes
(R62, R192, R263). -/
theorem enterHandler_table (c : Port) (hc : s.cfg.wf = true) (h1 : 1 ≤ idx) (h2 : idx < s.cfg.nvec) :
    ∃ kind, hkind s.cfg (vdt s.cfg idx) = some kind ∧
      enterHandler c idx s = .next { s with
        resume := s.resume.set c ⟨Config.resumePoint s.fresh, s.streams.get c⟩
        fresh := s.fresh + 1
        active := s.active.set c (some idx)
        pc := s.pc.set c (vdt s.cfg idx)
        streams := s.streams.set c ⟨handlerScript kind, []⟩
        hist := s.hist ++ [.dispatch c idx (vdt s.cfg idx)] } := by
  obtain ⟨hfetch, -, -⟩ := vectorFetchReadsTable s.cfg idx hc h2
  obtain ⟨-, -, -, -, -, -, hkinds, -⟩ := Config.wf_conditions hc
  obtain ⟨kind, hkind⟩ := Option.isSome_iff_exists.mp (hkinds idx h2 (Nat.ne_of_gt h1))
  exact ⟨kind, hkind, by simp only [enterHandler, hfetch, hkind]⟩

/-- An enabled dispatch enters the handler of the lowest pending enabled line (R262). -/
theorem dispatch_enabled (h : dispatchEnabled s c = true) :
    ∃ n, lowbit (pendingLines s c) = some n ∧ dispatch c s = enterHandler c (s.cfg.ncorex + n) s := by
  have hpending : pendingLines s c ≠ 0#32 := by
    simp only [dispatchEnabled, Bool.and_eq_true, bne_iff_ne] at h
    exact h.2
  obtain ⟨n, hn⟩ := lowbit_isSome hpending
  exact ⟨n, hn, by simp only [dispatch, h, if_true, hn]⟩

/-- Settles O32: the lowest line exists since the conditions are masked, so its entry stands in the table. -/
theorem dispatchEntersLowestLine : Obligations.DispatchEntersLowestLine := by
  intro s c later hinv hsched hd
  obtain ⟨hwf, -, -, -, hmask, -⟩ := hinv
  obtain ⟨n, hlow, hdispatch⟩ := dispatch_enabled (s := { s with schedule := later }) hd
  obtain ⟨-, hset, hleast⟩ := lowbit_some hlow
  have hlegal : 1 ≤ s.cfg.ncorex + n ∧ s.cfg.ncorex + n < s.cfg.nvec :=
    EntryIndex.legal (c := c) (.inr ⟨n, rfl, hset⟩) hwf hmask
  obtain ⟨kind, hkind, henter⟩ := enterHandler_table (s := { s with schedule := later }) c hwf hlegal.1 hlegal.2
  refine ⟨n, kind, Config.resumePoint s.fresh, ?_, hset, hleast, hkind, ?_⟩
  · unfold nirq
    omega
  · calc step s
        = dispatch c { s with schedule := later } := step_event (Config.configProblem_none hwf) hsched
      _ = enterHandler c (s.cfg.ncorex + n) { s with schedule := later } := hdispatch
      _ = _ := henter

/-- A core exception inside a handler faults (R266). -/
theorem exception_nested {e : Nat} (he1 : 1 ≤ e) (he2 : e < s.cfg.ncorex) (hr : s.ready = true)
    (hrun : coreRuns s c = true) (ha : s.active.get c ≠ none) :
    exception c e rest s = .fault (.nestedException c e) := by
  simp [exception, Nat.ne_of_gt he1, he2, hr, hrun, Option.isSome_iff_ne_none.mpr ha]

/-- A core exception in the background stream enters its handler, the stream saved after the line (R266). -/
theorem exception_background {e : Nat} (he1 : 1 ≤ e) (he2 : e < s.cfg.ncorex) (hr : s.ready = true)
    (hrun : coreRuns s c = true) (ha : s.active.get c = none) :
    exception c e rest s =
      enterHandler c e { s with streams := s.streams.set c ⟨rest, (s.streams.get c).names⟩ } := by
  simp [exception, Nat.ne_of_gt he1, he2, hr, hrun, ha]

/-- Settles O33: the step is the exception, which is nested or enters the handler from the stream after the line. -/
theorem exceptionEntersHandler : Obligations.ExceptionEntersHandler := by
  intro s c later e rest names hwf hsched hr hm hst he1 he2
  have hrun : coreRuns s c = true := coreRuns_of_streamMayStep hm
  have hstep : step s = exception c e rest { s with schedule := later } :=
    (step_event (Config.configProblem_none hwf) hsched).trans
      (coreStep_exc (s := { s with schedule := later }) hm hst)
  refine ⟨fun ha => ?_, fun ha => ?_⟩
  · exact hstep.trans (exception_nested (s := { s with schedule := later }) he1 he2 hr hrun ha)
  · obtain ⟨⟨-, hle, -⟩, -⟩ := Config.wf_conditions hwf
    obtain ⟨kind, hkind, henter⟩ := enterHandler_table
      (s := { s with schedule := later, streams := s.streams.set c ⟨rest, (s.streams.get c).names⟩ }) c hwf he1
      (Nat.lt_of_lt_of_le he2 hle)
    refine ⟨kind, Config.resumePoint s.fresh, hkind, ?_⟩
    rw [hstep, exception_background (s := { s with schedule := later }) he1 he2 hr hrun ha, henter]
    simp only [Pair.set_set, Pair.get_set_same, hst]

/-! ### Returning from a handler (R267, R268) -/

theorem inTrapLoop_of_active (ha : s.active.get c = some idx) :
    inTrapLoop s c = decide (hkind s.cfg (vdt s.cfg idx) = some .trapLoop) := by
  simp only [inTrapLoop, ha]

theorem hret_enabled (h : hretEnabled s c = true) : hret c s = .next (leaveHandler c s) :=
  if_pos h

/-- Settles O34: the return is enabled, and leaving the handler restores what the entry saved. -/
theorem handlerReturnRestores : Obligations.HandlerReturnRestores := by
  intro s c later idx hwf hsched ha hdone hkind
  have henabled : hretEnabled s c = true := by
    simp [hretEnabled, inTrapLoop_of_active ha, ha, hdone, hkind]
  calc step s
      = hret c { s with schedule := later } := step_event (Config.configProblem_none hwf) hsched
    _ = .next (leaveHandler c { s with schedule := later }) := hret_enabled (s := { s with schedule := later }) henabled
    _ = _ := rfl

/-- After a return a line still pending and enabled is dispatched again (R268). -/
theorem dispatchEnabled_leaveHandler (hr : s.ready = true) (hrun : coreRuns s c = true)
    (hp : pendingLines s c ≠ 0#32) : dispatchEnabled (leaveHandler c s) c = true := by
  have hrun' : coreRuns (leaveHandler c s) c = true := by
    cases c
    all_goals exact hrun
  have hp' : pendingLines (leaveHandler c s) c ≠ 0#32 := hp
  simp [dispatchEnabled, hr, hrun', hp']

/-- Settles O35: the dispatch enabled by the pending line holds the background stream that the return restored. -/
theorem unclearedLineReenters : Obligations.UnclearedLineReenters := by
  intro s c hr hrun hret hp
  have hd : dispatchEnabled (leaveHandler c s) c = true := dispatchEnabled_leaveHandler hr hrun hp
  have ha : (leaveHandler c s).active.get c = none := by simp
  exact ⟨leaveHandler c s, hret_enabled hret, hd, coreStep_held (streamMayStep_background ha (.inr hd))⟩

/-! ### Trap loops (R269) -/

/-- From `s` to `t` the launch configuration and core `c`'s handler stay: its index, program counter and saved point
(R263). -/
def HandlerKept (c : Port) (s t : State) : Prop :=
  t.cfg = s.cfg ∧ t.active.get c = s.active.get c ∧ t.pc.get c = s.pc.get c ∧ t.resume.get c = s.resume.get c

/-- A trap loop is a matter of the configuration and the active index. -/
theorem HandlerKept.inTrapLoop_eq (h : HandlerKept c s t) : inTrapLoop t c = inTrapLoop s c := by
  obtain ⟨hcfg, hactive, -, -⟩ := h
  rw [inTrapLoop, inTrapLoop, hcfg, hactive]

theorem active_ne_none_of_inTrapLoop (h : inTrapLoop s c = true) : s.active.get c ≠ none := by
  intro ha
  simp [inTrapLoop, ha] at h

/-- A transaction changes no handler (R282). -/
theorem exec_handlerKept (h : exec i s = .next t) : HandlerKept c s t := by
  obtain ⟨x, full, evt, parked, bsq, en, cond, hist, rdata, rfl⟩ := exec_frame h
  exact ⟨rfl, rfl, rfl, rfl⟩

/-- Two cores' handlers are apart. -/
theorem enterHandler_handlerKept (hq : c ≠ q) (h : enterHandler q idx s = .next t) : HandlerKept c s t := by
  obtain ⟨handler, kind, -, -, rfl⟩ := enterHandler_next h
  simp [HandlerKept, Pair.get_set, hq]

theorem leaveHandler_handlerKept (hq : c ≠ q) : HandlerKept c s (leaveHandler q s) := by
  simp [HandlerKept, Pair.get_set, hq]

section
variable (ha : s.active.get c ≠ none)
include ha

/-- A core that a handler is entered on has none active, so it is another one. -/
theorem ne_of_active_eq_none (hq : s.active.get q = none) : c ≠ q :=
  fun h => ha (h ▸ hq)

/-- A dispatch is disabled inside a handler (R262). -/
theorem dispatch_handlerKept (h : dispatch q s = .next t) : HandlerKept c s t := by
  obtain ⟨-, rfl⟩ | ⟨hd, n, -, h⟩ := dispatch_next h
  · exact ⟨rfl, rfl, rfl, rfl⟩
  · have hq : s.active.get q = none := by
      simp only [dispatchEnabled, Bool.and_eq_true, Option.isNone_iff_eq_none] at hd
      exact hd.1.2
    exact enterHandler_handlerKept (ne_of_active_eq_none ha hq) h

/-- A core exception inside a handler faults, so one that answers a next state is another core's (R266). -/
theorem exception_handlerKept {e : Nat} (h : exception q e rest s = .next t) : HandlerKept c s t := by
  obtain ⟨-, -, ⟨-, rfl⟩ | ⟨-, -, hq, h⟩⟩ := exception_next h
  · exact ⟨rfl, rfl, rfl, rfl⟩
  · have hkept := enterHandler_handlerKept (ne_of_active_eq_none ha hq) h
    exact hkept

theorem coreStep_handlerKept (h : coreStep q s = .next t) : HandlerKept c s t := by
  obtain rfl | ⟨-, ⟨_, _, _, _, _, i, u, -, -, -, hu, rfl⟩ | ⟨n, rest, h⟩ | ⟨v, rest, names, rfl⟩ |
    ⟨rest, names, rfl⟩⟩ := coreStep_next h
  · exact ⟨rfl, rfl, rfl, rfl⟩
  · have hkept := exec_handlerKept (c := c) hu
    exact hkept
  · exact exception_handlerKept ha h
  · exact ⟨rfl, rfl, rfl, rfl⟩
  · exact ⟨rfl, rfl, rfl, rfl⟩

/-- The launch sets the program counter of core 1, which has no handler before it (R29, R176). -/
theorem pblStep_handlerKept (hquiet : HaltedCoreQuiet s) (h : pblStep s = .next t) : HandlerKept c s t := by
  obtain rfl | ⟨-, hrun, -, ⟨-, -, -, -, rfl⟩ | ⟨-, -, rfl⟩ | ⟨-, rfl⟩ | ⟨-, -, -, -, rfl⟩⟩ := pblStep_next h
  · exact ⟨rfl, rfl, rfl, rfl⟩
  · rw [capture_eq]
    exact ⟨rfl, rfl, rfl, rfl⟩
  · exact ⟨rfl, rfl, rfl, rfl⟩
  · exact ⟨rfl, rfl, rfl, rfl⟩
  · cases c with
    | p0 => exact ⟨rfl, rfl, rfl, rfl⟩
    | p1 => exact absurd (hquiet hrun).1 ha

end

/-- The sequencer has no part in handlers. -/
theorem bsqStep_handlerKept (h : bsqStep s = .next t) : HandlerKept c s t := by
  obtain rfl | ⟨-, -, ⟨-, -, -, rfl⟩ | ⟨-, -, rfl⟩ | ⟨-, rfl⟩ | ⟨-, -, -, w, -, rfl⟩ | ⟨-, rfl⟩ |
    ⟨-, -, -, -, w, -, ⟨-, rfl⟩ | ⟨-, rfl⟩⟩⟩ := bsqStep_next h
  all_goals exact ⟨rfl, rfl, rfl, rfl⟩

/-- A trap loop has no return (R267). -/
theorem hret_handlerKept (htrap : inTrapLoop s c = true) (h : hret q s = .next t) : HandlerKept c s t := by
  obtain ⟨-, rfl⟩ | ⟨hq, rfl⟩ := hret_next h
  · exact ⟨rfl, rfl, rfl, rfl⟩
  · refine leaveHandler_handlerKept fun hcq => ?_
    simp [hretEnabled, ← hcq, htrap] at hq

/-- No event but `RESET` touches the handler of a core in a trap loop. -/
theorem runEvent_handlerKept (h : runEvent e s = .next t) (he : e ≠ .reset) (htrap : inTrapLoop s c = true)
    (hquiet : HaltedCoreQuiet s) : HandlerKept c s t := by
  have ha := active_ne_none_of_inTrapLoop htrap
  cases e with
  | reset => exact absurd rfl he
  | readyUp => obtain ⟨-, rfl⟩ | ⟨-, rfl⟩ := readyUp_next h <;> exact ⟨rfl, rfl, rfl, rfl⟩
  | edge n => obtain rfl | ⟨-, -, rfl⟩ := edge_next h <;> exact ⟨rfl, rfl, rfl, rfl⟩
  | dispatch q => exact dispatch_handlerKept ha h
  | hret q => exact hret_handlerKept htrap h
  | trap q =>
    cases (trap_eq q s).symm.trans h
    exact ⟨rfl, rfl, rfl, rfl⟩
  | waitResume q => obtain ⟨-, rfl⟩ | ⟨-, rfl⟩ := waitResume_next h <;> exact ⟨rfl, rfl, rfl, rfl⟩
  | bsqStep => exact bsqStep_handlerKept h
  | pblStep => exact pblStep_handlerKept ha hquiet h
  | env op =>
    obtain rfl | ⟨-, -, h⟩ := envStep_next h
    · exact ⟨rfl, rfl, rfl, rfl⟩
    · have hkept := exec_handlerKept (c := c) h
      exact hkept
  | core q => exact coreStep_handlerKept ha h

theorem step_handlerKept (h : step s = .next t) (hr : s.schedule.head? ≠ some .reset) (htrap : inTrapLoop s c = true)
    (hquiet : HaltedCoreQuiet s) : HandlerKept c s t := by
  obtain ⟨-, ⟨-, rfl⟩ | ⟨e, later, hs, h⟩⟩ := step_next h
  · exact ⟨rfl, rfl, rfl, rfl⟩
  · have hne : e ≠ .reset := fun he => hr (by rw [hs, he]; rfl)
    exact runEvent_handlerKept (s := { s with schedule := later }) h hne htrap hquiet

/-- Settles O36: the core's handler stays as it is, and with it the trap loop. -/
theorem trapLoopNeverLeft : Obligations.TrapLoopNeverLeft := by
  intro s t c hinv htrap hr h
  obtain ⟨-, -, -, -, -, hquiet, -⟩ := hinv
  have hkept := step_handlerKept h hr htrap hquiet
  have htrap' : inTrapLoop t c = true := hkept.inTrapLoop_eq.trans htrap
  obtain ⟨-, hactive, hpc, hresume⟩ := hkept
  exact ⟨htrap', hactive, hpc, hresume⟩

end Sys2Proof.Machine
end

section
/-! SUPPORT. What the family 70_reset_and_hazards.md needs: the event `READY_UP` in every state (R303). -/

namespace Sys2Proof.Machine

/-- `READY_UP` leaves the block ready and changes nothing else, whether it raises `READY` or is held (R303). -/
theorem readyUp_eq (s : State) : readyUp s = .next { s with ready := true } := by
  cases hr : s.ready with
  | false => rw [readyUp, hr, if_neg Bool.false_ne_true]
  | true =>
    have hself : { s with ready := true } = s := by rw [← hr]
    rw [readyUp, if_pos hr, hself, hold]

/-- Settles O44: each event runs in every state, and the values after `RESET` are the fields of `resetState`. -/
theorem resetAndReadiness : Obligations.ResetAndReadiness := by
  intro s later hwf
  refine ⟨fun hreset => ?_, fun hup => ?_⟩
  · calc step s
        = .next (resetState { s with schedule := later }) := step_event (Config.configProblem_none hwf) hreset
      _ = _ := rfl
  · calc step s
        = readyUp { s with schedule := later } := step_event (Config.configProblem_none hwf) hup
      _ = .next { s with schedule := later, ready := true } := readyUp_eq _

end Sys2Proof.Machine
end
